-- ==== Sys2Proof/Word.lean ====
section
/-! DEFINITION. Word types: the widths the spec gives its values (00_scope R6, 10_state R29). -/

namespace Sys2Proof

/-- One byte: the unit of every transfer (20_memory R51). -/
abbrev Byte := BitVec 8

/-- Every coordinate, extent, colour, raw sample, calibration constant and scale (00_scope R6). -/
abbrev U16 := BitVec 16

/-- The running sums and the FRAME length field (10_state R25, 30_encoding R80). -/
abbrev U32 := BitVec 32

end Sys2Proof
end

