-- ==== Sys2Proof/Config.lean ====
section
/-! DEFINITION. The parameters of 00_scope R6, the names of line levels, and the free values the spec
calls draws or unspecified. Nothing here has a value Lean could compute: every `opaque` is a free value. -/

namespace Sys2Proof

/-- The two peripherals that share the bus (20_memory R41). -/
inductive Dev
  | disp
  | touch
deriving DecidableEq, Repr, Inhabited

/-- A select line (10_state R21). -/
inductive Select
  | deasserted
  | asserted
deriving DecidableEq, Repr, Inhabited

/-- The command/data line (10_state R22). -/
inductive DcMode
  | command
  | data
deriving DecidableEq, Repr, Inhabited

/-- A digital level: the display's reset line (10_state R23) and the press line (R24). -/
inductive Level
  | low
  | high
deriving DecidableEq, Repr, Inhabited

/-- The touch axes (44_touch R174). -/
inductive Axis
  | x
  | y
deriving DecidableEq, Repr, Inhabited

/-- One entry `(command, payload, post_delay_ms)` of `INIT_TABLE` (42_init_sequencer R140). -/
structure InitEntry where
  command     : Byte
  payload     : List Byte
  postDelayMs : Nat
deriving DecidableEq, Repr, Inhabited

/-- One font `(gw, gh, count, rows)` (43_glyph_renderer R150). -/
structure Font where
  gw    : Nat
  gh    : Nat
  count : Nat
  rows  : List Nat
deriving DecidableEq, Repr, Inhabited

/-- The parameters of 00_scope R6, under the spec's names. -/
structure Params where
  chunkMax     : Nat
  cmdCaset     : Byte
  cmdRaset     : Byte
  cmdRamwr     : Byte
  cmdReadX     : Byte
  cmdReadY     : Byte
  axisFirst    : Axis
  initTable    : List InitEntry
  rstLowMs     : Nat
  rstHighMs    : Nat
  fonts        : List Font
  rowBits      : Nat
  defaultColor : U16
  payloadMax   : Nat
  textMax      : Nat
deriving DecidableEq, Repr, Inhabited

/-- `N_DEFAULT`: "a fixed sample count N (16)" (00_scope R6, 10_state R17). -/
def Config.nDefault : U16 := 16

/-- The constraints on one font: `1 <= gw <= ROW_BITS`, `gh >= 1`, `count >= 1`,
`len(rows) = count * gh`, rows of `ROW_BITS` bits (00_scope R6, 43_glyph_renderer R150). -/
def Font.legal (rowBits : Nat) (f : Font) : Bool :=
  decide (1 ≤ f.gw) && decide (f.gw ≤ rowBits) && decide (1 ≤ f.gh) && decide (1 ≤ f.count) &&
    decide (f.rows.length = f.count * f.gh) && f.rows.all (fun r => decide (r < 2 ^ rowBits))

/-- The constraint column of 00_scope R6. -/
def Params.legal (p : Params) : Bool :=
  decide (1 ≤ p.chunkMax) && decide (p.cmdReadX ≠ p.cmdReadY) &&
    p.initTable.all (fun e => decide (e.payload.length ≤ p.payloadMax)) && decide (1 ≤ p.rowBits) &&
    p.fonts.all (Font.legal p.rowBits) && decide (p.payloadMax < 2 ^ 32) && decide (p.textMax < 2 ^ 16)

/-- The result of one `transmit` or `transmit_receive` (20_memory R45, R46). A failed transfer
delivered some prefix of its bytes; how long is part of the draw (R65, U6). -/
inductive TransferResult
  | ok
  | fail (delivered : Nat)
deriving DecidableEq, Repr, Inhabited

/-- The registers to which the spec gives no reset value (10_state R29, "unspecified"). -/
structure PowerUp where
  calMinX : U16
  calMaxX : U16
  calMinY : U16
  calMaxY : U16
  scaleX  : U16
  scaleY  : U16
  dc      : DcMode
  rst     : Level
  sumX    : U32
  sumY    : U32
  cnt     : U16
deriving DecidableEq, Repr, Inhabited

/-- Free: the values of the unspecified registers after reset (DESIGN CHOICE, log 4). -/
opaque Config.powerUp : PowerUp

/-- Free: the parameters of one implementation (log 1). -/
opaque Config.openParams : Params

/-- Free: the result of the n-th transfer beyond those a state writes out (log 2). -/
opaque Config.freeTransfer : Nat → TransferResult

/-- Free: the n-th received byte beyond those a state writes out (log 2). -/
opaque Config.freeByte : Nat → Byte

/-- Free: the n-th press level beyond those a state writes out (log 2). -/
opaque Config.freeLevel : Nat → Level

/-- Free: which transport call since reset never returns, if one does not (60_exceptions R240, log 3). -/
opaque Config.neverReturns : Option Nat

/-- The least parameters that meet 00_scope R6; they only show that the constraints can be met. -/
def Params.least : Params :=
  { chunkMax := 1, cmdCaset := 0, cmdRaset := 0, cmdRamwr := 0, cmdReadX := 0,
    cmdReadY := 1, axisFirst := .x, initTable := [], rstLowMs := 0, rstHighMs := 0, fonts := [],
    rowBits := 1, defaultColor := 0, payloadMax := 0, textMax := 0 }

/-- The parameters after reset: any that meet the constraints of 00_scope R6, where R6 gives no value (log 1), and
`AXIS_FIRST = X`, the value R6 gives. -/
def Config.params : Params :=
  { (if Config.openParams.legal then Config.openParams else Params.least) with axisFirst := .x }

end Sys2Proof
end

