-- ==== Sys2Proof/Syntax.lean ====
section
/-! DEFINITION. The ten requests (00_scope R5, 30_encoding R80), one constructor per row of the opcode table. -/

namespace Sys2Proof

/-- A request with its operands, in the field order of 30_encoding R80. The length fields of FRAME and
WRITE_STRING are the lengths of the lists. -/
inductive Instr
  | cfgSurface (w h : U16) (rot : Byte)
  | cfgCal (minX maxX minY maxY scaleX scaleY : U16)
  | cfgSamples (n : U16)
  | init
  | frame (cmd : Byte) (payload : List Byte)
  | fillRect (x y w h color : U16)
  | fillScreen (color : U16)
  | clear
  | writeString (x y : U16) (font : Byte) (fg bg : U16) (text : List Byte)
  | touchRead
deriving DecidableEq, Repr, Inhabited

end Sys2Proof
end

