-- ==== Sys2Proof/Decode.lean ====
section
/-! DEFINITION. Byte order, the request decoder (30_encoding R79 to R85), the encoder, and the textual
spelling (R87, R88). -/

namespace Sys2Proof

/-! ### Byte order (00_scope R7, 20_memory R50, 30_encoding R77) -/

/-- `hi8(v) = v[15:8]`. -/
def hi8 (v : U16) : Byte := v.extractLsb' 8 8

/-- `lo8(v) = v[7:0]`. -/
def lo8 (v : U16) : Byte := v.extractLsb' 0 8

/-- `be16(b0, b1)`: the first byte is the more significant. -/
def be16 (b0 b1 : Byte) : U16 := b0 ++ b1

/-- `u32 at k` of 30_encoding R81. -/
def be32 (b0 b1 b2 b3 : Byte) : U32 := b0 ++ b1 ++ b2 ++ b3

/-- A 16-bit value as two bytes, high byte first. -/
def u16Bytes (v : U16) : List Byte := [hi8 v, lo8 v]

/-- A 32-bit value as four bytes, high byte first. -/
def u32Bytes (v : U32) : List Byte :=
  [v.extractLsb' 24 8, v.extractLsb' 16 8, v.extractLsb' 8 8, v.extractLsb' 0 8]

/-! ### The decoder -/

/-- Why a list of bytes is no request (30_encoding R83). Every reason gets the same answer,
`ERR_ILLEGAL` (60_exceptions R230). -/
inductive Illegal
  | empty
  | reservedOpcode
  | wrongLength
  | overLimit
deriving DecidableEq, Repr

/-- `CFG_SURFACE`: w u16, h u16, rot u8. -/
def decodeCfgSurface : List Byte → Except Illegal Instr
  | [w1, w0, h1, h0, rot] => .ok (.cfgSurface (be16 w1 w0) (be16 h1 h0) rot)
  | _ => .error .wrongLength

/-- `CFG_CAL`: min_x, max_x, min_y, max_y, scale_x, scale_y, each u16. -/
def decodeCfgCal : List Byte → Except Illegal Instr
  | [a1, a0, b1, b0, c1, c0, d1, d0, e1, e0, f1, f0] =>
    .ok (.cfgCal (be16 a1 a0) (be16 b1 b0) (be16 c1 c0) (be16 d1 d0) (be16 e1 e0) (be16 f1 f0))
  | _ => .error .wrongLength

/-- `CFG_SAMPLES`: n u16. -/
def decodeCfgSamples : List Byte → Except Illegal Instr
  | [n1, n0] => .ok (.cfgSamples (be16 n1 n0))
  | _ => .error .wrongLength

/-- A format with no field: `INIT`, `CLEAR`, `TOUCH_READ`. -/
def decodeNone (i : Instr) : List Byte → Except Illegal Instr
  | [] => .ok i
  | _ => .error .wrongLength

/-- `FRAME`: cmd u8, len u32, then exactly `len` bytes, `len` at most `PAYLOAD_MAX`. -/
def decodeFrame (p : Params) : List Byte → Except Illegal Instr
  | cmd :: l3 :: l2 :: l1 :: l0 :: payload =>
    let len := (be32 l3 l2 l1 l0).toNat
    if p.payloadMax < len then .error .overLimit
    else if payload.length = len then .ok (.frame cmd payload)
    else .error .wrongLength
  | _ => .error .wrongLength

/-- `FILL_RECT`: x, y, w, h, color, each u16. -/
def decodeFillRect : List Byte → Except Illegal Instr
  | [x1, x0, y1, y0, w1, w0, h1, h0, c1, c0] =>
    .ok (.fillRect (be16 x1 x0) (be16 y1 y0) (be16 w1 w0) (be16 h1 h0) (be16 c1 c0))
  | _ => .error .wrongLength

/-- `FILL_SCREEN`: color u16. -/
def decodeFillScreen : List Byte → Except Illegal Instr
  | [c1, c0] => .ok (.fillScreen (be16 c1 c0))
  | _ => .error .wrongLength

/-- `WRITE_STRING`: x, y u16, font u8, fg, bg, len u16, then exactly `len` bytes, `len` at most
`TEXT_MAX`. -/
def decodeWriteString (p : Params) : List Byte → Except Illegal Instr
  | x1 :: x0 :: y1 :: y0 :: font :: f1 :: f0 :: b1 :: b0 :: l1 :: l0 :: text =>
    let len := (be16 l1 l0).toNat
    if p.textMax < len then .error .overLimit
    else if text.length = len then
      .ok (.writeString (be16 x1 x0) (be16 y1 y0) font (be16 f1 f0) (be16 b1 b0) text)
    else .error .wrongLength
  | _ => .error .wrongLength

/-- The decoder, total on any byte list. Byte 0 alone selects the request (30_encoding R82); the 246 other
values are reserved (R83). -/
def decode (p : Params) : List Byte → Except Illegal Instr
  | [] => .error .empty
  | opcode :: rest =>
    match opcode.toNat with
    | 0x01 => decodeCfgSurface rest
    | 0x02 => decodeCfgCal rest
    | 0x03 => decodeCfgSamples rest
    | 0x10 => decodeNone .init rest
    | 0x20 => decodeFrame p rest
    | 0x30 => decodeFillRect rest
    | 0x31 => decodeFillScreen rest
    | 0x32 => decodeNone .clear rest
    | 0x40 => decodeWriteString p rest
    | 0x50 => decodeNone .touchRead rest
    | _ => .error .reservedOpcode

/-! ### The encoder -/

/-- Byte 0 of a request (30_encoding R80). -/
def Instr.opcode : Instr → Byte
  | .cfgSurface _ _ _ => 0x01
  | .cfgCal _ _ _ _ _ _ => 0x02
  | .cfgSamples _ => 0x03
  | .init => 0x10
  | .frame _ _ => 0x20
  | .fillRect _ _ _ _ _ => 0x30
  | .fillScreen _ => 0x31
  | .clear => 0x32
  | .writeString _ _ _ _ _ _ => 0x40
  | .touchRead => 0x50

/-- The bytes after the opcode (30_encoding R80). -/
def Instr.fieldBytes : Instr → List Byte
  | .cfgSurface w h rot => u16Bytes w ++ u16Bytes h ++ [rot]
  | .cfgCal minX maxX minY maxY scaleX scaleY =>
    u16Bytes minX ++ u16Bytes maxX ++ u16Bytes minY ++ u16Bytes maxY ++ u16Bytes scaleX ++ u16Bytes scaleY
  | .cfgSamples n => u16Bytes n
  | .init => []
  | .frame cmd payload => [cmd] ++ u32Bytes (BitVec.ofNat 32 payload.length) ++ payload
  | .fillRect x y w h color => u16Bytes x ++ u16Bytes y ++ u16Bytes w ++ u16Bytes h ++ u16Bytes color
  | .fillScreen color => u16Bytes color
  | .clear => []
  | .writeString x y font fg bg text =>
    u16Bytes x ++ u16Bytes y ++ [font] ++ u16Bytes fg ++ u16Bytes bg ++
      u16Bytes (BitVec.ofNat 16 text.length) ++ text
  | .touchRead => []

/-- The bytes of a request. -/
def encode (i : Instr) : List Byte := i.opcode :: i.fieldBytes

/-- The total length the table of 30_encoding R80 gives each format. -/
def Instr.requestLength : Instr → Nat
  | .cfgSurface _ _ _ => 6
  | .cfgCal _ _ _ _ _ _ => 13
  | .cfgSamples _ => 3
  | .init => 1
  | .frame _ payload => 6 + payload.length
  | .fillRect _ _ _ _ _ => 11
  | .fillScreen _ => 3
  | .clear => 1
  | .writeString _ _ _ _ _ text => 12 + text.length
  | .touchRead => 1

/-- Pseudo-request `CMD b` is `FRAME b, []` (30_encoding R88). -/
def Instr.cmd (b : Byte) : Instr := .frame b []

/-! ### Words numbered as the opcode table numbers them -/

/-- The length of the request whose first bytes these are and whose later bytes are 0: the fixed part
plus the count the length field states (30_encoding R79). -/
def statedLength : List Byte → Nat
  | [] => 1
  | opcode :: rest =>
    match opcode.toNat with
    | 0x01 => 6
    | 0x02 => 13
    | 0x03 => 3
    | 0x20 => 6 + (be32 (rest.getD 1 0) (rest.getD 2 0) (rest.getD 3 0) (rest.getD 4 0)).toNat
    | 0x30 => 11
    | 0x31 => 3
    | 0x40 => 12 + (be16 (rest.getD 9 0) (rest.getD 10 0)).toNat
    | _ => 1

/-- The n bytes of w, byte k being bits 8k+7..8k (the opcode table's bit 0 is the least significant bit of
byte 0; log 18). -/
def wordBytes (n w : Nat) : List Byte :=
  (List.range n).map fun k => BitVec.ofNat 8 (w / 2 ^ (8 * k))

/-- The request a word of `nbits` bits spells, every bit above it 0, as long as its format needs. -/
def tableRequest (nbits w : Nat) : List Byte :=
  let given := wordBytes ((nbits + 7) / 8) (w % 2 ^ nbits)
  given ++ List.replicate (statedLength given - given.length) 0

/-- What the decoder reads from such a word. -/
def decodeTableWord (nbits w : Nat) : Option Instr :=
  match decode Config.params (tableRequest nbits w) with
  | .ok i => some i
  | .error _ => none

/-! ### Textual spelling (30_encoding R87) -/

def hexDigit (n : Nat) : Char := ("0123456789ABCDEF".toList).getD (n % 16) '0'

/-- Two hexadecimal digits. -/
def spellByte (b : Byte) : String := String.ofList [hexDigit (b.toNat / 16), hexDigit b.toNat]

/-- A bracketed list of hexadecimal bytes. -/
def spellBytes (bs : List Byte) : String := "[" ++ " ".intercalate (bs.map spellByte) ++ "]"

/-- Operands in field order, comma separated. -/
def spellOperands (l : List String) : String := ", ".intercalate l

/-- Numbers in decimal; a text in the bracketed form (R87 allows either, log 19). -/
def Instr.spell : Instr → String
  | .cfgSurface w h rot => "CFG_SURFACE " ++ spellOperands [toString w.toNat, toString h.toNat, toString rot.toNat]
  | .cfgCal a b c d e f => "CFG_CAL " ++ spellOperands ([a, b, c, d, e, f].map fun v => toString v.toNat)
  | .cfgSamples n => "CFG_SAMPLES " ++ toString n.toNat
  | .init => "INIT"
  | .frame cmd payload => "FRAME " ++ spellOperands [toString cmd.toNat, spellBytes payload]
  | .fillRect x y w h c => "FILL_RECT " ++ spellOperands ([x, y, w, h, c].map fun v => toString v.toNat)
  | .fillScreen c => "FILL_SCREEN " ++ toString c.toNat
  | .clear => "CLEAR"
  | .writeString x y font fg bg text =>
    "WRITE_STRING " ++ spellOperands [toString x.toNat, toString y.toNat, toString font.toNat,
      toString fg.toNat, toString bg.toNat, spellBytes text]
  | .touchRead => "TOUCH_READ"

end Sys2Proof
end

