-- ==== Sys2Proof/Machine/State.lean ====
section
/-! DEFINITION. Everything the spec gives the block (10_state R10 to R30) as plain data, the model's own
fields beside it, and the state after reset. -/

namespace Sys2Proof.Machine

/-- An event of the call trace: exactly the forms of 20_memory R57. -/
inductive Event
  | sel (dev : Dev)
  | desel (dev : Dev)
  | mode (m : DcMode)
  | rst (level : Level)
  | tx (bytes : List Byte)
  | txFail (bytes : List Byte)
  | txRx (out : List Byte) (received : List Byte)
  | txRxFail (out : List Byte)
  | delay (ms : Nat)
  | press (level : Level)
deriving DecidableEq, Repr

/-- A transport call with its arguments, before it returns (20_memory R40). -/
inductive Call
  | assertSelect (dev : Dev)
  | deassertSelect (dev : Dev)
  | setMode (m : DcMode)
  | setReset (level : Level)
  | transmit (bytes : List Byte)
  | transmitReceive (out : List Byte)
  | delayMs (ms : Nat)
  | readPress
deriving DecidableEq, Repr

/-- The position reached inside a request's pseudocode (10_state R12): how many of its transport calls
have returned, and the call that is outstanding (log 12). -/
structure Pos where
  returned    : Nat
  outstanding : Option Call
deriving DecidableEq, Repr

/-- The sequencer (10_state R12). -/
inductive Seq
  | idle
  | busy (req : Instr) (pos : Pos)
deriving DecidableEq, Repr

/-- The eight result kinds (60_exceptions R220). -/
inductive Kind
  | ok
  | touch
  | noTouch
  | errTransport
  | errConfig
  | errOperand
  | errLocked
  | errIllegal
deriving DecidableEq, Repr

/-- A response (30_encoding R92). -/
structure Response where
  status : Byte
  x      : U16
  y      : U16
deriving DecidableEq, Repr

/-- Draws yet to be made: those written out, then free ones; `used` counts the draws already made (log 2). -/
structure Draws (α : Type) where
  script : List α
  used   : Nat
deriving DecidableEq, Repr

/-- What comes to the block from outside (00_scope R9 "Draw", 10_state R11). The model's own, no
register of the block. -/
structure Env where
  requests     : List (List Byte)
  transfers    : Draws TransferResult
  received     : Draws Byte
  presses      : Draws Level
  neverReturns : Option Nat
  calls        : Nat
deriving DecidableEq, Repr

/-- The registers of 10_state R29, the two histories of R30, and the model's own fields. -/
structure State where
  seq         : Seq
  surfW       : U16
  surfH       : U16
  rotMask     : Byte
  nSamples    : U16
  calMinX     : U16
  calMaxX     : U16
  calMinY     : U16
  calMaxY     : U16
  scaleX      : U16
  scaleY      : U16
  calValid    : Bool
  initDone    : Bool
  csDisp      : Select
  csTouch     : Select
  dc          : DcMode
  rst         : Level
  sumX        : U32
  sumY        : U32
  cnt         : U16
  status      : Byte
  resX        : U16
  resY        : U16
  trace       : List Event
  responses   : List Response
  yExact      : Option Int
  cutPrefixes : List (List Byte)
  params      : Params
  env         : Env
deriving DecidableEq, Repr

/-- Why the machine can stop. -/
inductive Fault
  /-- Raised by `step` on a BUSY state: a transport call never returned, so "the block stays BUSY"
  and "makes no further step" (60_exceptions R240, 93_implementation_defined U9). Safe: the model stops
  where the spec says the block does. -/
  | transportCallNeverReturned
deriving DecidableEq, Repr

/-- Why a request can have no meaning. -/
inductive Refusal
  /-- Raised by an arm of `exec` whose request has no meaning yet; no arm raises it. Safe: the model
  stops where the block goes on. -/
  | notModelled (mnemonic : String)
deriving DecidableEq, Repr

/-- The environment after reset: no request issued, every draw free (log 2, log 3, log 6). -/
def Env.reset : Env :=
  { requests := [], transfers := ⟨[], 0⟩, received := ⟨[], 0⟩, presses := ⟨[], 0⟩,
    neverReturns := Config.neverReturns, calls := 0 }

/-- The "after reset" column of 10_state R29 and 70_reset R250. The registers the spec leaves unspecified
take the free values `Config.powerUp` (log 4); the model's own fields start as log 16 says. -/
def State.reset : State :=
  { seq := .idle
    surfW := 0
    surfH := 0
    rotMask := 0
    nSamples := Config.nDefault
    calMinX := Config.powerUp.calMinX
    calMaxX := Config.powerUp.calMaxX
    calMinY := Config.powerUp.calMinY
    calMaxY := Config.powerUp.calMaxY
    scaleX := Config.powerUp.scaleX
    scaleY := Config.powerUp.scaleY
    calValid := false
    initDone := false
    csDisp := .deasserted
    csTouch := .deasserted
    dc := Config.powerUp.dc
    rst := Config.powerUp.rst
    sumX := Config.powerUp.sumX
    sumY := Config.powerUp.sumY
    cnt := Config.powerUp.cnt
    status := 0x00
    resX := 0
    resY := 0
    trace := []
    responses := []
    yExact := none
    cutPrefixes := []
    params := Config.params
    env := Env.reset }

end Sys2Proof.Machine
end

