-- ==== Sys2Proof/Machine/Flags.lean ====
section
/-! DEFINITION. The flag-like state of the block (10_state R28): the kind codes in STATUS, CAL_VALID, INIT_DONE,
and the gate `CNT < N`. There are no arithmetic flags. -/

namespace Sys2Proof.Machine

/-- The codes of 60_exceptions R220. -/
def Kind.code : Kind → Byte
  | .ok => 0x00
  | .touch => 0x01
  | .noTouch => 0x02
  | .errTransport => 0x80
  | .errConfig => 0x81
  | .errOperand => 0x82
  | .errLocked => 0x83
  | .errIllegal => 0x84

/-- The "error?" column of 60_exceptions R220. -/
def Kind.isError : Kind → Bool
  | .ok => false
  | .touch => false
  | .noTouch => false
  | .errTransport => true
  | .errConfig => true
  | .errOperand => true
  | .errLocked => true
  | .errIllegal => true

/-- `min < max` on both axes: the calibrations `CFG_CAL` accepts (45_config R202). -/
def calibrationLegal (minX maxX minY maxY : U16) : Bool :=
  decide (minX.toNat < maxX.toNat) && decide (minY.toNat < maxY.toNat)

/-- An accepted `CFG_CAL` sets the six registers and CAL_VALID together (10_state R18, R19). -/
def State.setCalibration (s : State) (minX maxX minY maxY scaleX scaleY : U16) : State :=
  { s with calMinX := minX, calMaxX := maxX, calMinY := minY, calMaxY := maxY,
           scaleX := scaleX, scaleY := scaleY, calValid := true }

/-- `INIT_DONE <- 1` (42_init_sequencer R141). -/
def State.setInitDone (s : State) : State := { s with initDone := true }

/-- `CNT < N`: fewer than N samples were collected (44_touch R177). -/
def State.tooFewSamples (s : State) : Bool := decide (s.cnt.toNat < s.nSamples.toNat)

end Sys2Proof.Machine
end

