-- ==== Sys2Proof/Machine/Operands.lean ====
section
/-! DEFINITION. The pure computations on operands: chunking, colour packing, clipping, glyph lookup and text
layout, and the touch arithmetic. All arithmetic is exact (00_scope R7, 10_state R26). -/

namespace Sys2Proof.Machine

/-! ### Chunks (40_framer R101, R102) -/

/-- `ceil(a / b)`. -/
def ceilDiv (a b : Nat) : Nat := (a + b - 1) / b

/-- Chunk k is `p[k*C : min((k+1)*C, L)]`, for `k` in `0 .. ceil(L / C) - 1`. -/
def chunks (c : Nat) (p : List Byte) : List (List Byte) :=
  (List.range (ceilDiv p.length c)).map fun k => (p.drop (k * c)).take c

/-! ### Colour (41_address_window R120, 30_encoding R75) -/

/-- `COLOR565(r, g, b)`. The block never computes it (30_encoding R88). -/
def color565 (r g b : Byte) : U16 :=
  ((r.setWidth 16 &&& 0xF8) <<< 8) ||| ((g.setWidth 16 &&& 0xFC) <<< 3) ||| ((b.setWidth 16 &&& 0xF8) >>> 3)

/-! ### Clipping (41_address_window R124) -/

/-- One axis of `clip`: the extent clamped so that `pos + extent <= surface`. -/
def clampExtent (surface pos extent : Nat) : Nat :=
  if surface < pos + extent then surface - pos else extent

/-- `clip(x, y, w, h)` on a surface of W by H. -/
def clip (W H x y w h : Nat) : Option (Nat × Nat) :=
  if W ≤ x ∨ H ≤ y then none
  else if clampExtent W x w = 0 ∨ clampExtent H y h = 0 then none
  else some (clampExtent W x w, clampExtent H y h)

/-! ### Fonts and text layout (43_glyph_renderer) -/

/-- `glyph_row(f, code, row)` (R151). Outside its domain, where WRITE_STRING never calls it, it reads 0
(log 14). -/
def glyphRow (f : Font) (code row : Nat) : Nat := f.rows.getD ((code - 32) * f.gh + row) 0

/-- Pixel `(row, col)` is on when bit `ROW_BITS - 1 - col` of the glyph row is 1 (R152). -/
def pixelOn (rowBits : Nat) (f : Font) (code row col : Nat) : Bool :=
  (glyphRow f code row).testBit (rowBits - 1 - col)

/-- The colours of one character cell, rows top to bottom, columns left to right (R153). -/
def glyphPixels (rowBits : Nat) (f : Font) (code : Nat) (fg bg : U16) : List U16 :=
  (List.range f.gh).flatMap fun row =>
    (List.range f.gw).map fun col => if pixelOn rowBits f code row col then fg else bg

/-- A code has a glyph when `32 <= code < 32 + count` (R150). -/
def hasGlyph (f : Font) (code : Nat) : Bool := decide (32 ≤ code) && decide (code < 32 + f.count)

/-- The refusals (a) to (d) of R158, in order: the font of a text that is not refused. -/
def usableFont (p : Params) (W H y font : Nat) (text : List Byte) : Option Font :=
  match p.fonts[font]? with
  | none => none
  | some f =>
    if W < f.gw ∨ H < f.gh then none
    else if H < y + f.gh then none
    else if text.all (fun ch => hasGlyph f ch.toNat) then some f
    else none

/-- A character with the top-left pixel it is drawn at. -/
structure Placed where
  x    : Nat
  y    : Nat
  code : Byte
deriving DecidableEq, Repr

/-- The cursor of R155: wrap before drawing when `cx + gw > W` (R156); stop, dropping the rest, when the
wrapped line has `cy + gh > H` (R157). -/
def layout (W H gw gh : Nat) : List Byte → Nat → Nat → List Placed
  | [], _, _ => []
  | ch :: rest, cx, cy =>
    if W < cx + gw then
      if H < (cy + gh) + gh then []
      else ⟨0, cy + gh, ch⟩ :: layout W H gw gh rest (0 + gw) (cy + gh)
    else ⟨cx, cy, ch⟩ :: layout W H gw gh rest (cx + gw) cy

/-! ### Touch arithmetic (44_touch R178 to R183) -/

/-- `clamp(v, mn, mx)` (R179). -/
def clampRaw (v mn mx : Nat) : Nat := if v < mn then mn else if mx < v then mx else v

/-- `map_axis(raw, mn, mx, sc)` (R181). The divisor is at least 1 in every calibration `CFG_CAL` accepts
(R171, log 13). -/
def mapAxis (raw mn mx sc : Nat) : Nat := ((clampRaw raw mn mx - mn) * sc) / (mx - mn)

/-- `y_out = SCALE_Y - 1 - y_mapped`, an integer (R182). -/
def yOut (sc mapped : Nat) : Int := (sc : Int) - 1 - (mapped : Int)

end Sys2Proof.Machine
end

