-- ==== Sys2Proof/Machine/Ops.lean ====
section
/-! DEFINITION. The nine transport calls (20_memory R40 to R49), procedures built of them, the scope of a select
line (R62), ending a request (the block's exception entry, 60_exceptions R226 to R230), and taking a request
from the host port. -/

namespace Sys2Proof.Machine

/-! ### Draws -/

/-- The k-th draw from here on: written out in the state, or free. -/
def Draws.peek {α : Type} (free : Nat → α) (d : Draws α) (k : Nat) : α :=
  (d.script[k]?).getD (free (d.used + k))

/-- n draws have been made. -/
def Draws.skip {α : Type} (d : Draws α) (n : Nat) : Draws α := ⟨d.script.drop n, d.used + n⟩

/-- The result of the k-th transfer from here on (20_memory R45, R46). -/
def State.transferAt (s : State) (k : Nat) : TransferResult := s.env.transfers.peek Config.freeTransfer k

/-- The k-th byte the touch controller will return from here on (20_memory R46). -/
def State.receivedAt (s : State) (k : Nat) : Byte := s.env.received.peek Config.freeByte k

/-- The level of the k-th press read from here on (20_memory R48). -/
def State.pressAt (s : State) (k : Nat) : Level := s.env.presses.peek Config.freeLevel k

/-- Whether the next transport call returns (60_exceptions R240). -/
def State.callReturns (s : State) : Bool := decide (s.env.neverReturns ≠ some s.env.calls)

/-! ### One transport call -/

/-- The prefix of the bytes of a transfer that fails which the listener received (20_memory R65,
93_implementation_defined U6, log 9). -/
def State.deliveredOf (s : State) (bytes : List Byte) : List Byte :=
  match s.transferAt 0 with
  | .ok => bytes
  | .fail delivered => bytes.take delivered

/-- What a returned call does to the lines and to the draws (20_memory R41 to R48, R65). -/
def State.apply (s : State) : Event → State
  | .sel .disp => { s with csDisp := .asserted }
  | .sel .touch => { s with csTouch := .asserted }
  | .desel .disp => { s with csDisp := .deasserted }
  | .desel .touch => { s with csTouch := .deasserted }
  | .mode m => { s with dc := m }
  | .rst level => { s with rst := level }
  | .tx _ => { s with env.transfers := s.env.transfers.skip 1 }
  | .txFail bytes =>
    { s with
      env.transfers := s.env.transfers.skip 1
      cutPrefixes := s.cutPrefixes ++ [s.deliveredOf bytes] }
  | .txRx out _ =>
    { s with
      env.transfers := s.env.transfers.skip 1
      env.received := s.env.received.skip out.length }
  | .txRxFail out =>
    { s with
      env.transfers := s.env.transfers.skip 1
      cutPrefixes := s.cutPrefixes ++ [s.deliveredOf out] }
  | .delay _ => s
  | .press _ => { s with env.presses := s.env.presses.skip 1 }

/-- `pos` moves past one call (10_state R12). -/
def Seq.advance : Seq → Seq
  | .idle => .idle
  | .busy req pos => .busy req { pos with returned := pos.returned + 1 }

/-- `pos` stays at a call that does not return (60_exceptions R240). -/
def Seq.wait (c : Call) : Seq → Seq
  | .idle => .idle
  | .busy req pos => .busy req { pos with outstanding := some c }

/-- A returned call: its effect, and its event appended to the call trace (20_memory R57). -/
def State.emit (s : State) (e : Event) : State :=
  let t := s.apply e
  { t with trace := t.trace ++ [e], seq := t.seq.advance, env.calls := t.env.calls + 1 }

/-- A call that never returns: nothing more happens (60_exceptions R240, log 3). -/
def State.hang (s : State) (c : Call) : State := { s with seq := s.seq.wait c }

/-- How a procedure ends: with a result; by `raise TransportFailure` (00_scope R7); or not at all,
because a call never returned. -/
inductive Run (α : Type)
  | ok (result : α) (s : State)
  | failed (s : State)
  | hung (s : State)

/-- One statement after another: a failure or a hang ends the procedure. -/
def Run.bind {α β : Type} (r : Run α) (next : α → State → Run β) : Run β :=
  match r with
  | .ok a s => next a s
  | .failed s => .failed s
  | .hung s => .hung s

/-- `bind` after a statement without a result. -/
def Run.andThen {β : Type} (r : Run Unit) (next : State → Run β) : Run β := r.bind fun _ s => next s

/-- A call that cannot fail (20_memory R49). -/
def simpleCall (c : Call) (e : Event) (s : State) : Run Unit :=
  if s.callReturns then .ok () (s.emit e) else .hung (s.hang c)

/-- `assert_select(dev)` (20_memory R41). -/
def assertSelect (dev : Dev) (s : State) : Run Unit := simpleCall (.assertSelect dev) (.sel dev) s

/-- `deassert_select(dev)` (20_memory R42). -/
def deassertSelect (dev : Dev) (s : State) : Run Unit := simpleCall (.deassertSelect dev) (.desel dev) s

/-- `set_command_mode()` and `set_data_mode()` (20_memory R43). -/
def setMode (m : DcMode) (s : State) : Run Unit := simpleCall (.setMode m) (.mode m) s

/-- `set_reset(level)` (20_memory R44). -/
def setReset (level : Level) (s : State) : Run Unit := simpleCall (.setReset level) (.rst level) s

/-- `delay_ms(n)` (20_memory R47). -/
def delayMs (n : Nat) (s : State) : Run Unit := simpleCall (.delayMs n) (.delay n) s

/-- `read_press()` (20_memory R48). -/
def readPress (s : State) : Run Level :=
  if s.callReturns then .ok (s.pressAt 0) (s.emit (.press (s.pressAt 0))) else .hung (s.hang .readPress)

/-- `transmit(bytes)` (20_memory R45). -/
def transmit (bytes : List Byte) (s : State) : Run Unit :=
  if s.callReturns then
    match s.transferAt 0 with
    | .ok => .ok () (s.emit (.tx bytes))
    | .fail _ => .failed (s.emit (.txFail bytes))
  else .hung (s.hang (.transmit bytes))

/-- The bytes an exchange returns, as many as it sends (20_memory R46). -/
def State.answerBytes (s : State) (n : Nat) : List Byte := (List.range n).map s.receivedAt

/-- `transmit_receive(out)` (20_memory R46). -/
def transmitReceive (out : List Byte) (s : State) : Run (List Byte) :=
  if s.callReturns then
    match s.transferAt 0 with
    | .ok => .ok (s.answerBytes out.length) (s.emit (.txRx out (s.answerBytes out.length)))
    | .fail _ => .failed (s.emit (.txRxFail out))
  else .hung (s.hang (.transmitReceive out))

/-! ### Loops and scopes -/

/-- `for a in list`. -/
def forEach {α : Type} (body : α → State → Run Unit) : List α → State → Run Unit
  | [], s => .ok () s
  | a :: rest, s => (body a s).andThen (forEach body rest)

/-- A scope of the select line of `dev`, closed on every way out (20_memory R62). -/
def inScope {α : Type} (dev : Dev) (body : State → Run α) (s : State) : Run α :=
  (assertSelect dev s).andThen fun s =>
    match body s with
    | .ok a s => (deassertSelect dev s).andThen fun s => .ok a s
    | .failed s => (deassertSelect dev s).andThen fun s => .failed s
    | .hung s => .hung s

/-! ### Beginning and ending a request -/

/-- `SEQ <- BUSY(req, start)` (10_state R11). `step` does this from IDLE only (log 17). -/
def State.begin (s : State) (req : Instr) : State := { s with seq := .busy req ⟨0, none⟩ }

/-- The result registers are written once, the response is emitted and the block goes IDLE (10_state R11,
R27, 30_encoding R92, 60_exceptions R226). -/
def State.respond (s : State) (k : Kind) (x y : U16) (exact : Option Int) : State :=
  { s with
    seq := .idle
    status := k.code
    resX := x
    resY := y
    yExact := exact
    responses := s.responses ++ [⟨k.code, x, y⟩] }

/-- Ending with a kind other than TOUCH: `RES_X = RES_Y = 0`. Every error ends a request here
(60_exceptions R226 to R230). -/
def State.answer (s : State) (k : Kind) : State := s.respond k 0 0 none

/-- Ending with TOUCH: `RES_X <- x`, `RES_Y <- y mod 2^16` (44_touch R183). -/
def State.answerTouch (s : State) (x : Nat) (y : Int) : State :=
  s.respond .touch (BitVec.ofNat 16 x) (BitVec.ofInt 16 y) (some y)

/-- How a request that used the bus ends: by its own rule, with ERR_TRANSPORT, or never. -/
def conclude {α : Type} (r : Run α) (done : α → State → State) : State :=
  match r with
  | .ok a s => done a s
  | .failed s => s.answer .errTransport
  | .hung s => s

/-- The answer to bytes that are no request (30_encoding R83, 60_exceptions R230). -/
def answerIllegal (_why : Illegal) (s : State) : State := s.answer .errIllegal

/-- The request on the port, if the host presents one, and the state in which it has been taken
(10_state R11). -/
def State.takeRequest (s : State) : Option (List Byte × State) :=
  match s.env.requests with
  | [] => none
  | bytes :: rest => some (bytes, { s with env.requests := rest })

/-- The five bytes of a response (30_encoding R92). -/
def Response.bytes (r : Response) : List Byte := [r.status] ++ u16Bytes r.x ++ u16Bytes r.y

end Sys2Proof.Machine
end

