-- ==== Sys2Proof/Machine/Framer.lean ====
section
/-! DEFINITION. The command/data framer (40_framer): `send_command`, `send_data`, `frame`, FRAME. -/

namespace Sys2Proof.Machine

/-- `send_command(b)` (40_framer R100). -/
def sendCommand (b : Byte) (s : State) : Run Unit := (setMode .command s).andThen (transmit [b])

/-- `send_data(p)` (40_framer R101). -/
def sendData (p : List Byte) (s : State) : Run Unit :=
  (setMode .data s).andThen (forEach transmit (chunks s.params.chunkMax p))

/-- `frame(cmd, p)` (40_framer R107). -/
def sendFrame (cmd : Byte) (p : List Byte) (s : State) : Run Unit :=
  (sendCommand cmd s).andThen fun s => if p.length > 0 then sendData p s else .ok () s

/-- `FRAME cmd, payload` (40_framer R108). -/
def execFrame (cmd : Byte) (payload : List Byte) (s : State) : Host.Outcome State Fault Refusal :=
  let s := s.begin (.frame cmd payload)
  .next (conclude (inScope .disp (sendFrame cmd payload) s) fun _ s => s.answer .ok)

end Sys2Proof.Machine
end

