-- ==== Sys2Proof/Machine/Window.lean ====
section
/-! DEFINITION. The address window engine (41_address_window): `set_window`, `send_pixel`, FILL_RECT, FILL_SCREEN,
CLEAR. -/

namespace Sys2Proof.Machine

/-- `set_window(x0, y0, x1, y1)` (41_address_window R122). -/
def setWindow (x0 y0 x1 y1 : U16) (s : State) : Run Unit :=
  (sendCommand s.params.cmdCaset s).andThen fun s =>
  (sendData (u16Bytes x0 ++ u16Bytes x1) s).andThen fun s =>
  (sendCommand s.params.cmdRaset s).andThen fun s =>
  (sendData (u16Bytes y0 ++ u16Bytes y1) s).andThen fun s =>
  sendCommand s.params.cmdRamwr s

/-- `send_pixel(c)` (41_address_window R123). -/
def sendPixel (c : U16) (s : State) : Run Unit := sendData (u16Bytes c) s

/-- A window with its pixel stream: the window of `w` by `h` pixels at `(x, y)`, then its pixels in the same
scope (70_reset R263). -/
def drawCell (x y w h : Nat) (pixels : List U16) (s : State) : Run Unit :=
  (setWindow (BitVec.ofNat 16 x) (BitVec.ofNat 16 y) (BitVec.ofNat 16 (x + w - 1))
    (BitVec.ofNat 16 (y + h - 1)) s).andThen (forEach sendPixel pixels)

/-- The pseudocode of FILL_RECT after the request has begun (41_address_window R125, R126). -/
def fillRegion (x y w h : Nat) (color : U16) (s : State) : State :=
  match clip s.surfW.toNat s.surfH.toNat x y w h with
  | none => s.answer .ok
  | some (w', h') =>
    conclude (inScope .disp (drawCell x y w' h' (List.replicate (w' * h') color)) s)
      fun _ s => s.answer .ok

/-- `FILL_RECT x, y, w, h, color` (41_address_window R126). -/
def execFillRect (x y w h color : U16) (s : State) : Host.Outcome State Fault Refusal :=
  .next (fillRegion x.toNat y.toNat w.toNat h.toNat color (s.begin (.fillRect x y w h color)))

/-- `FILL_SCREEN color` is `FILL_RECT(0, 0, SURF_W, SURF_H, color)` (41_address_window R128). -/
def execFillScreen (color : U16) (s : State) : Host.Outcome State Fault Refusal :=
  .next (fillRegion 0 0 s.surfW.toNat s.surfH.toNat color (s.begin (.fillScreen color)))

/-- `CLEAR` is `FILL_SCREEN(DEFAULT_COLOR)` (41_address_window R129). -/
def execClear (s : State) : Host.Outcome State Fault Refusal :=
  .next (fillRegion 0 0 s.surfW.toNat s.surfH.toNat s.params.defaultColor (s.begin .clear))

end Sys2Proof.Machine
end

