-- ==== Sys2Proof/Machine/Glyph.lean ====
section
/-! DEFINITION. The glyph renderer (43_glyph_renderer): `write_char`, WRITE_STRING. -/

namespace Sys2Proof.Machine

/-- `write_char(x, y, f, code, fg, bg)` (43_glyph_renderer R153). -/
def writeChar (f : Font) (fg bg : U16) (c : Placed) (s : State) : Run Unit :=
  drawCell c.x c.y f.gw f.gh (glyphPixels s.params.rowBits f c.code.toNat fg bg) s

/-- `WRITE_STRING x, y, font, fg, bg, text` (43_glyph_renderer R155): the cursor's path is `layout`. -/
def execWriteString (x y : U16) (font : Byte) (fg bg : U16) (text : List Byte) (s : State) :
    Host.Outcome State Fault Refusal :=
  let s := s.begin (.writeString x y font fg bg text)
  .next (match usableFont s.params s.surfW.toNat s.surfH.toNat y.toNat font.toNat text with
    | none => s.answer .errOperand
    | some f =>
      conclude (inScope .disp (forEach (writeChar f fg bg)
          (layout s.surfW.toNat s.surfH.toNat f.gw f.gh text x.toNat y.toNat)) s)
        fun _ s => s.answer .ok)

end Sys2Proof.Machine
end

