-- ==== Sys2Proof/Machine/InitSequencer.lean ====
section
/-! DEFINITION. The init sequencer (42_init_sequencer): INIT. -/

namespace Sys2Proof.Machine

/-- A delay of 0 makes no call (42_init_sequencer R140, R141). -/
def delayUnlessZero (n : Nat) (s : State) : Run Unit := if n > 0 then delayMs n s else .ok () s

/-- One entry of the init table: `frame(cmd, p)`, then its delay (42_init_sequencer R141). -/
def sendEntry (e : InitEntry) (s : State) : Run Unit :=
  (sendFrame e.command e.payload s).andThen (delayUnlessZero e.postDelayMs)

/-- The reset pulse and the replay of the table, inside the scope (42_init_sequencer R141). -/
def initBody (s : State) : Run Unit :=
  (setReset .low s).andThen fun s =>
  (delayUnlessZero s.params.rstLowMs s).andThen fun s =>
  (setReset .high s).andThen fun s =>
  (delayUnlessZero s.params.rstHighMs s).andThen fun s =>
  forEach sendEntry s.params.initTable s

/-- `INIT` (42_init_sequencer R141). -/
def execInit (s : State) : Host.Outcome State Fault Refusal :=
  let s := s.begin .init
  .next (if s.initDone then s.answer .errLocked
         else conclude (inScope .disp initBody s) fun _ s => s.setInitDone.answer .ok)

end Sys2Proof.Machine
end

