-- ==== Sys2Proof/Machine/Settings.lean ====
section
/-! DEFINITION. The configuration requests (45_config). None makes a transport call (R205). -/

namespace Sys2Proof.Machine

/-- `CFG_SURFACE w, h, rot` (45_config R200). -/
def execCfgSurface (w h : U16) (rot : Byte) (s : State) : Host.Outcome State Fault Refusal :=
  let s := s.begin (.cfgSurface w h rot)
  .next (if s.initDone then s.answer .errLocked
         else { s with surfW := w, surfH := h, rotMask := rot }.answer .ok)

/-- `CFG_CAL min_x, max_x, min_y, max_y, scale_x, scale_y` (45_config R202). -/
def execCfgCal (minX maxX minY maxY scaleX scaleY : U16) (s : State) :
    Host.Outcome State Fault Refusal :=
  let s := s.begin (.cfgCal minX maxX minY maxY scaleX scaleY)
  .next (if calibrationLegal minX maxX minY maxY then
           (s.setCalibration minX maxX minY maxY scaleX scaleY).answer .ok
         else s.answer .errConfig)

/-- `CFG_SAMPLES n` (45_config R204). -/
def execCfgSamples (n : U16) (s : State) : Host.Outcome State Fault Refusal :=
  let s := s.begin (.cfgSamples n)
  .next (if n = 0 then s.answer .errConfig else { s with nSamples := n }.answer .ok)

end Sys2Proof.Machine
end

