-- ==== Sys2Proof/Machine/Touch.lean ====
section
/-! DEFINITION. The touch sampler and calibration pipeline (44_touch): TOUCH_READ. -/

namespace Sys2Proof.Machine

/-- One axis of a sample: its command, then a two-byte exchange (44_touch R174, 30_encoding R76). An
exchange of two bytes returns two bytes. -/
def readAxis (cmd : Byte) (s : State) : Run U16 :=
  (transmit [cmd] s).andThen fun s =>
  (transmitReceive [0x00, 0x00] s).bind fun r s => .ok (be16 (r.getD 0 0) (r.getD 1 0)) s

/-- `read_sample()`: `(raw_x, raw_y)`, the axis `AXIS_FIRST` read first (44_touch R174). -/
def readSample (s : State) : Run (U16 × U16) :=
  match s.params.axisFirst with
  | .x => (readAxis s.params.cmdReadX s).bind fun rx s =>
          (readAxis s.params.cmdReadY s).bind fun ry s => .ok (rx, ry) s
  | .y => (readAxis s.params.cmdReadY s).bind fun ry s =>
          (readAxis s.params.cmdReadX s).bind fun rx s => .ok (rx, ry) s

/-- `SUM_X <- 0 ; SUM_Y <- 0 ; CNT <- 0` (44_touch R170). Nothing else clears them: between requests they keep what
the last touch read left, where 93_implementation_defined U4 allows any value (DESIGN CHOICE, log 20). -/
def State.clearSums (s : State) : State := { s with sumX := 0, sumY := 0, cnt := 0 }

/-- Accumulation of one sample (44_touch R175). The values stay in the registers after the request, also those of
a read that stopped early or failed (DESIGN CHOICE, log 20). -/
def State.accumulate (s : State) (rx ry : U16) : State :=
  { s with sumX := s.sumX + rx.setWidth 32, sumY := s.sumY + ry.setWidth 32, cnt := s.cnt + 1 }

/-- The sampling loop, at most n iterations, left at the first HIGH (44_touch R173). -/
def sampleLoop : Nat → State → Run Unit
  | 0, s => .ok () s
  | n + 1, s =>
    (readPress s).bind fun level s =>
      match level with
      | .high => .ok () s
      | .low => (readSample s).bind fun r s => sampleLoop n (s.accumulate r.1 r.2)

/-- Steps 4 to 6: the gate, the averages, the maps and the flip (44_touch R177 to R183). -/
def finishTouch (s : State) : State :=
  if s.tooFewSamples then s.answer .noTouch
  else
    let n := s.nSamples.toNat
    let xMapped := mapAxis (s.sumX.toNat / n) s.calMinX.toNat s.calMaxX.toNat s.scaleX.toNat
    let yMapped := mapAxis (s.sumY.toNat / n) s.calMinY.toNat s.calMaxY.toNat s.scaleY.toNat
    s.answerTouch xMapped (yOut s.scaleY.toNat yMapped)

/-- `TOUCH_READ` (44_touch R170). -/
def execTouchRead (s : State) : Host.Outcome State Fault Refusal :=
  let s := s.begin .touchRead
  .next (if s.calValid then
           conclude (inScope .touch (sampleLoop s.nSamples.toNat) s.clearSums) fun _ s => finishTouch s
         else s.answer .errConfig)

end Sys2Proof.Machine
end

