-- ==== Sys2Proof/Machine/Dispatch.lean ====
section
/-! DEFINITION. One arm per request of spec/opcode_table.json. -/

namespace Sys2Proof.Machine

def exec (i : Instr) (s : State) : Host.Outcome State Fault Refusal :=
  match i with
  | .cfgSurface w h rot => Sys2Proof.Machine.execCfgSurface w h rot s
  | .cfgCal minX maxX minY maxY scaleX scaleY => Sys2Proof.Machine.execCfgCal minX maxX minY maxY scaleX scaleY s
  | .cfgSamples n => Sys2Proof.Machine.execCfgSamples n s
  | .init => Sys2Proof.Machine.execInit s
  | .frame cmd payload => Sys2Proof.Machine.execFrame cmd payload s
  | .fillRect x y w h color => Sys2Proof.Machine.execFillRect x y w h color s
  | .fillScreen color => Sys2Proof.Machine.execFillScreen color s
  | .clear => Sys2Proof.Machine.execClear s
  | .writeString x y font fg bg text => Sys2Proof.Machine.execWriteString x y font fg bg text s
  | .touchRead => Sys2Proof.Machine.execTouchRead s

end Sys2Proof.Machine
end

