-- ==== Sys2Proof/Machine/Step.lean ====
section
/-! DEFINITION. One step: the block, IDLE, takes one request and executes it to completion (10_state R11,
log 5). -/

namespace Sys2Proof.Machine

/-- From IDLE: the next request is taken, decoded and executed, or answered ERR_ILLEGAL; with no request the
block waits and keeps all state (70_reset R251, 60_exceptions R236). From BUSY: a transport call never
returned, and no further step is made (60_exceptions R240). -/
def step (s : State) : Host.Outcome State Fault Refusal :=
  match s.seq with
  | .busy _ _ => .fault .transportCallNeverReturned
  | .idle =>
    match s.takeRequest with
    | none => .next s
    | some (bytes, s') =>
      match decode s'.params bytes with
      | .ok i => exec i s'
      | .error why => .next (answerIllegal why s')

/-- The request a word of the opcode table spells, put first in what the host issues, so that it is the
next request taken (log 6). -/
def State.withFetchWord (s : State) (nbits w : Nat) : State :=
  { s with env.requests := tableRequest nbits w :: s.env.requests }

end Sys2Proof.Machine
end

