-- ==== Sys2Proof/Machine/Wire.lean ====
section
/-! DEFINITION. The wire formats of 30_encoding R71 to R76 as lists of call-trace events, and the wire view of a
call trace: what a listener can tell (20_memory R58). -/

namespace Sys2Proof.Machine

/-! ### Wire formats -/

/-- `W-CMD` (30_encoding R71). -/
def wireCmd (b : Byte) : List Event := [.mode .command, .tx [b]]

/-- `W-DATA(p)` (30_encoding R72). -/
def wireData (c : Nat) (p : List Byte) : List Event := .mode .data :: (chunks c p).map Event.tx

/-- `W-FRAME(cmd, p)` (30_encoding R73). -/
def wireFrame (c : Nat) (cmd : Byte) (p : List Byte) : List Event :=
  wireCmd cmd ++ (if p = [] then [] else wireData c p)

/-- `W-WINDOW(x0, y0, x1, y1)` (30_encoding R74). -/
def wireWindow (p : Params) (x0 y0 x1 y1 : U16) : List Event :=
  wireFrame p.chunkMax p.cmdCaset [hi8 x0, lo8 x0, hi8 x1, lo8 x1] ++
  wireFrame p.chunkMax p.cmdRaset [hi8 y0, lo8 y0, hi8 y1, lo8 y1] ++
  wireCmd p.cmdRamwr

/-- `W-PIXEL(c)` (30_encoding R75). -/
def wirePixel (c : Nat) (color : U16) : List Event := wireData c [hi8 color, lo8 color]

/-- `W-AXIS(cmd)` with the two bytes the exchange returned (30_encoding R76). -/
def wireAxis (cmd r0 r1 : Byte) : List Event := [.tx [cmd], .txRx [0x00, 0x00] [r0, r1]]

/-- The window of `w` by `h` pixels at `(x, y)` and its pixels (41_address_window R126, 43_glyph_renderer
R153). -/
def wireCell (p : Params) (x y w h : Nat) (pixels : List U16) : List Event :=
  wireWindow p (BitVec.ofNat 16 x) (BitVec.ofNat 16 y) (BitVec.ofNat 16 (x + w - 1))
    (BitVec.ofNat 16 (y + h - 1)) ++ pixels.flatMap (wirePixel p.chunkMax)

/-- A delay, which for 0 is no call (42_init_sequencer R141). -/
def wireDelay (ms : Nat) : List Event := if ms > 0 then [.delay ms] else []

/-- An init-table entry (30_encoding R73). -/
def wireEntry (c : Nat) (e : InitEntry) : List Event :=
  wireFrame c e.command e.payload ++ wireDelay e.postDelayMs

/-- The reset pulse and the replay (42_init_sequencer R141). -/
def wireInit (p : Params) : List Event :=
  [.rst .low] ++ wireDelay p.rstLowMs ++ [.rst .high] ++ wireDelay p.rstHighMs ++
    p.initTable.flatMap (wireEntry p.chunkMax)

/-- The cells of a laid-out text (43_glyph_renderer R153, R155). -/
def wireText (p : Params) (f : Font) (fg bg : U16) (l : List Placed) : List Event :=
  l.flatMap fun c => wireCell p c.x c.y f.gw f.gh (glyphPixels p.rowBits f c.code.toNat fg bg)

/-- The number of `transmit` calls in a list of events that all succeed. -/
def txCount (l : List Event) : Nat :=
  (l.filter fun e => match e with | .tx _ => true | _ => false).length

/-- The number of mode calls in a list of events. -/
def modeCount (l : List Event) : Nat :=
  (l.filter fun e => match e with | .mode _ => true | _ => false).length

/-- The number of exchanges of two zero bytes that succeed in a list of events (30_encoding R76). -/
def exchangeCount (l : List Event) : Nat :=
  (l.filter fun e => match e with | .txRx out _ => decide (out = [0x00, 0x00]) | _ => false).length

/-- What is sent of a planned list of events when its transmit number k, from 0, fails: everything before
it, and the failure (40_framer R105, 60_exceptions R226). -/
def cutAt : Nat → List Event → List Event
  | _, [] => []
  | 0, .tx bytes :: _ => [.txFail bytes]
  | k + 1, .tx bytes :: rest => .tx bytes :: cutAt k rest
  | k, e :: rest => e :: cutAt k rest

/-! ### Wire view (20_memory R58) -/

/-- The lines a listener sees. -/
structure Lines where
  csDisp  : Select
  csTouch : Select
  dc      : DcMode
deriving DecidableEq, Repr

/-- The lines as a state drives them. -/
def State.lines (s : State) : Lines := ⟨s.csDisp, s.csTouch, s.dc⟩

/-- The lines after an event. -/
def Lines.apply (l : Lines) : Event → Lines
  | .sel .disp => { l with csDisp := .asserted }
  | .sel .touch => { l with csTouch := .asserted }
  | .desel .disp => { l with csDisp := .deasserted }
  | .desel .touch => { l with csTouch := .deasserted }
  | .mode m => { l with dc := m }
  | .rst _ => l
  | .tx _ => l
  | .txFail _ => l
  | .txRx _ _ => l
  | .txRxFail _ => l
  | .delay _ => l
  | .press _ => l

/-- One item of the wire view: a successfully sent byte with the lines it was sent under, or a select,
deselect, reset or delay event. -/
inductive WireItem
  | byte (b : Byte) (under : Lines)
  | sel (dev : Dev)
  | desel (dev : Dev)
  | rst (level : Level)
  | delay (ms : Nat)
deriving DecidableEq, Repr

/-- What one event shows. `Mode` events show only through the bytes sent under them (log 10). -/
def Event.shows (l : Lines) : Event → List WireItem
  | .sel dev => [.sel dev]
  | .desel dev => [.desel dev]
  | .mode _ => []
  | .rst level => [.rst level]
  | .tx bytes => bytes.map fun b => .byte b l
  | .txFail _ => []
  | .txRx out _ => out.map fun b => .byte b l
  | .txRxFail _ => []
  | .delay ms => [.delay ms]
  | .press _ => []

/-- The wire view of a call trace that starts with these lines. -/
def wireView : Lines → List Event → List WireItem
  | _, [] => []
  | l, e :: rest => e.shows l ++ wireView (l.apply e) rest

/-! ### The byte streams (20_memory R52) -/

/-- The bytes of a transfer that failed (20_memory R65). -/
def Event.failedBytes : Event → Option (List Byte)
  | .txFail bytes => some bytes
  | .txRxFail out => some out
  | .sel _ => none
  | .desel _ => none
  | .mode _ => none
  | .rst _ => none
  | .tx _ => none
  | .txRx _ _ => none
  | .delay _ => none
  | .press _ => none

/-- The delivered prefixes fit a call trace: one for each transfer that failed, in order, each a prefix of its
bytes (20_memory R65). -/
def CutsFit (cuts : List (List Byte)) (l : List Event) : Prop :=
  List.Forall₂ (· <+: ·) cuts (l.filterMap Event.failedBytes)

/-- The bytes of one event that the selected controller receives. `cuts` holds the delivered prefixes of the
transfers that fail from here on (20_memory R45, R65). -/
def Event.delivers (cuts : List (List Byte)) : Event → List Byte
  | .tx bytes => bytes
  | .txRx out _ => out
  | .txFail _ => cuts.headD []
  | .txRxFail _ => cuts.headD []
  | .sel _ => []
  | .desel _ => []
  | .mode _ => []
  | .rst _ => []
  | .delay _ => []
  | .press _ => []

/-- The delivered prefixes left after an event. -/
def Event.cutsAfter (cuts : List (List Byte)) (e : Event) : List (List Byte) :=
  if e.failedBytes.isSome then cuts.tail else cuts

/-- The display byte stream: what the display controller receives while `CS_DISP` is asserted, the delivered
prefix of a failed transfer included, each byte with the `DC` it was sent under. -/
def displayStream : Lines → List (List Byte) → List Event → List (DcMode × Byte)
  | _, _, [] => []
  | l, cuts, e :: rest =>
    (if l.csDisp = .asserted then (e.delivers cuts).map fun b => (l.dc, b) else []) ++
      displayStream (l.apply e) (e.cutsAfter cuts) rest

/-- One item of the touch byte stream: a byte the touch controller receives, or a byte it answers. -/
inductive TouchItem
  | received (b : Byte)
  | answered (b : Byte)
deriving DecidableEq, Repr

/-- The bytes the touch controller answers in one event; those of an exchange that fails are not used
(20_memory R46, R65). -/
def Event.answers : Event → List Byte
  | .txRx _ received => received
  | .sel _ => []
  | .desel _ => []
  | .mode _ => []
  | .rst _ => []
  | .tx _ => []
  | .txFail _ => []
  | .txRxFail _ => []
  | .delay _ => []
  | .press _ => []

/-- The touch byte stream: what the touch controller receives and answers while `CS_TOUCH` is asserted, the
delivered prefix of a failed transfer included. In an exchange the bytes received stand before those answered
(log 9). -/
def touchStream : Lines → List (List Byte) → List Event → List TouchItem
  | _, _, [] => []
  | l, cuts, e :: rest =>
    (if l.csTouch = .asserted then (e.delivers cuts).map .received ++ e.answers.map .answered else []) ++
      touchStream (l.apply e) (e.cutsAfter cuts) rest

/-- The lines after reset (10_state R29; DC is a free value, log 4). -/
def Lines.reset : Lines := ⟨.deasserted, .deasserted, Config.powerUp.dc⟩

/-- What the display controller has received since reset. -/
def State.displayStream (s : State) : List (DcMode × Byte) :=
  Machine.displayStream Lines.reset s.cutPrefixes s.trace

/-- What the touch controller has received and answered since reset. -/
def State.touchStream (s : State) : List TouchItem :=
  Machine.touchStream Lines.reset s.cutPrefixes s.trace

end Sys2Proof.Machine
end

