-- ==== Sys2Proof/Safety.lean ====
section
/-! DEFINITION. What counts as a safe run of the block, in the terms the claims use: the select-scope discipline
of the call trace, the invariant of a state, and the premises and frames of the claims. -/

namespace Sys2Proof.Machine

/-! ### The scope discipline (20_memory R41 to R48, R61, R62; 40_framer R110; 60_exceptions R226) -/

/-- Where a call trace stands. In a scope of the display, the mode call already made in it, if any. After
a failed transfer only the deselect may follow. -/
inductive Scope
  | closed
  | disp (mode : Option DcMode)
  | touch
  | failed (dev : Dev)
deriving DecidableEq, Repr

/-- The lengths of a display transmit: a command byte, or a chunk of 1 to C data bytes. None before a mode
call (40_framer R100, R102, R110). -/
def displayTxLegal (c : Nat) : Option DcMode → List Byte → Bool
  | none, _ => false
  | some .command, bytes => decide (bytes.length = 1)
  | some .data, bytes => decide (1 ≤ bytes.length) && decide (bytes.length ≤ c)

/-- Which event may follow, and where it leads. A select only when no line is asserted; modes, reset and
delays only with the display selected; press reads and exchanges of two zero bytes only with the touch
controller selected. -/
def Scope.next (c : Nat) : Scope → Event → Option Scope
  | .closed, .sel .disp => some (.disp none)
  | .closed, .sel .touch => some .touch
  | .disp _, .mode m => some (.disp (some m))
  | .disp m, .tx bytes => if displayTxLegal c m bytes then some (.disp m) else none
  | .disp m, .txFail bytes => if displayTxLegal c m bytes then some (.failed .disp) else none
  | .disp m, .rst _ => some (.disp m)
  | .disp m, .delay _ => some (.disp m)
  | .disp _, .desel .disp => some .closed
  | .touch, .press _ => some .touch
  | .touch, .tx bytes => if bytes.length = 1 then some .touch else none
  | .touch, .txFail bytes => if bytes.length = 1 then some (.failed .touch) else none
  | .touch, .txRx out received =>
    if out = [0x00, 0x00] ∧ received.length = 2 then some .touch else none
  | .touch, .txRxFail out => if out = [0x00, 0x00] then some (.failed .touch) else none
  | .touch, .desel .touch => some .closed
  | .failed .disp, .desel .disp => some .closed
  | .failed .touch, .desel .touch => some .closed
  | _, _ => none

/-- The scope a trace leads to from a scope, if every event of it is allowed. -/
def Scope.run (c : Nat) : Scope → List Event → Option Scope
  | sc, [] => some sc
  | sc, e :: rest => match sc.next c e with
    | none => none
    | some sc' => sc'.run c rest

/-- The select lines and DC are those the scope says. -/
def Scope.fits (sc : Scope) (s : State) : Bool :=
  match sc with
  | .closed => decide (s.csDisp = .deasserted) && decide (s.csTouch = .deasserted)
  | .disp m => decide (s.csDisp = .asserted) && decide (s.csTouch = .deasserted) &&
      (match m with | none => true | some d => decide (s.dc = d))
  | .touch => decide (s.csDisp = .deasserted) && decide (s.csTouch = .asserted)
  | .failed .disp => decide (s.csDisp = .asserted) && decide (s.csTouch = .deasserted)
  | .failed .touch => decide (s.csDisp = .deasserted) && decide (s.csTouch = .asserted)

/-- The whole trace keeps the discipline, its scope fits the lines, and it is closed when the block is
IDLE (10_state R21, 20_memory R61, 70_reset R260). -/
def State.busSafe (s : State) : Bool :=
  match Scope.closed.run s.params.chunkMax s.trace with
  | none => false
  | some sc => sc.fits s && (if s.seq = .idle then decide (sc = .closed) else true)

/-! ### Result kinds -/

/-- Which request can end with which kind (60_exceptions R221). -/
def requestKinds : Instr → List Kind
  | .cfgSurface _ _ _ => [.ok, .errLocked]
  | .cfgCal _ _ _ _ _ _ => [.ok, .errConfig]
  | .cfgSamples _ => [.ok, .errConfig]
  | .init => [.ok, .errTransport, .errLocked]
  | .frame _ _ => [.ok, .errTransport]
  | .fillRect _ _ _ _ _ => [.ok, .errTransport]
  | .fillScreen _ => [.ok, .errTransport]
  | .clear => [.ok, .errTransport]
  | .writeString _ _ _ _ _ _ => [.ok, .errTransport, .errOperand]
  | .touchRead => [.touch, .noTouch, .errTransport, .errConfig]

/-! ### The invariant -/

/-- The status codes that are produced (60_exceptions R220). -/
def statusCodes : List Byte := [0x00, 0x01, 0x02, 0x80, 0x81, 0x82, 0x83, 0x84]

/-- What every reachable state of the block meets. -/
structure Invariant (s : State) : Prop where
  /-- The parameters meet their constraints (00_scope R6). -/
  paramsLegal : s.params.legal = true
  /-- `N_SAMPLES` is 1 to 65535 (10_state R17). -/
  samplesLegal : s.nSamples ≠ 0
  /-- A valid calibration has `min < max` on both axes (10_state R18, R19). -/
  calibrationLegal : s.calValid = true → calibrationLegal s.calMinX s.calMaxX s.calMinY s.calMaxY = true
  /-- The select-scope discipline (20_memory R61). -/
  busSafe : s.busSafe = true
  /-- STATUS is one of the eight codes (60_exceptions R220). -/
  statusLegal : s.status ∈ statusCodes
  /-- `RES_X = RES_Y = 0` unless the kind is TOUCH (10_state R27). -/
  resultsZero : s.status ≠ Kind.touch.code → s.resX = 0 ∧ s.resY = 0
  /-- The result registers are the last response's copy (10_state R27). -/
  lastResponse : s.responses = [] ∨ s.responses.getLast? = some ⟨s.status, s.resX, s.resY⟩
  /-- The integer kept beside RES_Y is that of a TOUCH, and RES_Y is its 16 bits (44_touch R183, log 8). -/
  exactResult : ∀ y, s.yExact = some y → s.status = Kind.touch.code ∧ s.resY = BitVec.ofInt 16 y
  /-- There is one delivered prefix for each transfer that failed (20_memory R65, log 9). -/
  cutsFit : CutsFit s.cutPrefixes s.trace
  /-- A BUSY state between steps is a hang: the outstanding call is the one that never returns
  (60_exceptions R240). -/
  busyIsHung : s.seq ≠ .idle → s.env.neverReturns = some s.env.calls

/-! ### Premises and frames of the claims -/

/-- "every transport call returns" (60_exceptions R240, 92_eei_decisions D30). -/
def State.AllCallsReturn (s : State) : Prop := s.env.neverReturns = none

/-- The next n transfers succeed. -/
def State.TransfersOk (s : State) (n : Nat) : Prop := ∀ k, k < n → s.transferAt k = .ok

/-- The next n press reads find the line LOW. -/
def State.PressedFor (s : State) (n : Nat) : Prop := ∀ k, k < n → s.pressAt k = .low

/-- Two states whose next draws are equal: the results of so many transfers, so many received bytes and press
levels, and, of so many transport calls, which one never returns. How many draws were made before, and how many
calls, may differ (44_touch R185). -/
structure SameDraws (s s' : State) (transfers received presses calls : Nat) : Prop where
  transfers_eq : ∀ k, k < transfers → s'.transferAt k = s.transferAt k
  received_eq : ∀ k, k < received → s'.receivedAt k = s.receivedAt k
  presses_eq : ∀ k, k < presses → s'.pressAt k = s.pressAt k
  hangs_iff : ∀ k, k < calls →
    (s'.env.neverReturns = some (s'.env.calls + k) ↔ s.env.neverReturns = some (s.env.calls + k))

/-- The response and the result registers of a request that ended (10_state R11, R27). -/
structure Answered (s t : State) (status : Byte) (x y : U16) : Prop where
  idle : t.seq = .idle
  status_eq : t.status = status
  resX_eq : t.resX = x
  resY_eq : t.resY = y
  responses_eq : t.responses = s.responses ++ [⟨status, x, y⟩]

/-- Nothing but the result registers, the response history and the sequencer differs: no configuration
register, line or accumulator changed, and no transport call was made (60_exceptions R227 to R230). `yExact` is
the model's own part of the result (log 8). -/
def OnlyResultsChange (s t : State) : Prop :=
  t = { s with seq := t.seq, status := t.status, resX := t.resX, resY := t.resY
               yExact := t.yExact, responses := t.responses }

/-- The surface registers are unchanged. -/
def SameSurface (s t : State) : Prop :=
  t.surfW = s.surfW ∧ t.surfH = s.surfH ∧ t.rotMask = s.rotMask

/-- The calibration registers, SCALE_X, SCALE_Y and CAL_VALID are unchanged. -/
def SameCalibration (s t : State) : Prop :=
  t.calMinX = s.calMinX ∧ t.calMaxX = s.calMaxX ∧ t.calMinY = s.calMinY ∧ t.calMaxY = s.calMaxY ∧
  t.scaleX = s.scaleX ∧ t.scaleY = s.scaleY ∧ t.calValid = s.calValid

/-- The touch accumulators are unchanged (log 20). -/
def SameSums (s t : State) : Prop := t.sumX = s.sumX ∧ t.sumY = s.sumY ∧ t.cnt = s.cnt

/-- Everything a request that uses the display leaves unchanged: all but DC, RST, INIT_DONE, the result
registers, the histories and the draws. `CS_DISP` ends deasserted. -/
structure DisplayFrame (s t : State) : Prop where
  surface : SameSurface s t
  calibration : SameCalibration s t
  nSamples_eq : t.nSamples = s.nSamples
  csDisp_eq : t.csDisp = .deasserted
  csTouch_eq : t.csTouch = s.csTouch
  sums : SameSums s t
  params_eq : t.params = s.params
  requests_eq : t.env.requests = s.env.requests

/-- Everything TOUCH_READ leaves unchanged: all but the accumulators, the result registers, the histories and
the draws. -/
structure TouchFrame (s t : State) : Prop where
  surface : SameSurface s t
  calibration : SameCalibration s t
  nSamples_eq : t.nSamples = s.nSamples
  initDone_eq : t.initDone = s.initDone
  csDisp_eq : t.csDisp = s.csDisp
  csTouch_eq : t.csTouch = .deasserted
  dc_eq : t.dc = s.dc
  rst_eq : t.rst = s.rst
  params_eq : t.params = s.params
  requests_eq : t.env.requests = s.env.requests

/-! ### What a display request plans to send -/

/-- The events a request that uses the display makes inside its scope when no transfer fails; none for a
request that does not use it, is refused, or has nothing to send (20_memory R62). -/
def State.displayPlan (s : State) : Instr → Option (List Event)
  | .cfgSurface _ _ _ => none
  | .cfgCal _ _ _ _ _ _ => none
  | .cfgSamples _ => none
  | .init => if s.initDone then none else some (wireInit s.params)
  | .frame cmd payload => some (wireFrame s.params.chunkMax cmd payload)
  | .fillRect x y w h color =>
    (clip s.surfW.toNat s.surfH.toNat x.toNat y.toNat w.toNat h.toNat).map fun r =>
      wireCell s.params x.toNat y.toNat r.1 r.2 (List.replicate (r.1 * r.2) color)
  | .fillScreen color =>
    (clip s.surfW.toNat s.surfH.toNat 0 0 s.surfW.toNat s.surfH.toNat).map fun r =>
      wireCell s.params 0 0 r.1 r.2 (List.replicate (r.1 * r.2) color)
  | .clear =>
    (clip s.surfW.toNat s.surfH.toNat 0 0 s.surfW.toNat s.surfH.toNat).map fun r =>
      wireCell s.params 0 0 r.1 r.2 (List.replicate (r.1 * r.2) s.params.defaultColor)
  | .writeString x y font fg bg text =>
    (usableFont s.params s.surfW.toNat s.surfH.toNat y.toNat font.toNat text).map fun f =>
      wireText s.params f fg bg (layout s.surfW.toNat s.surfH.toNat f.gw f.gh text x.toNat y.toNat)
  | .touchRead => none

/-- Whether a request uses the bus: it is not refused before its first transport call and does not find that it
has nothing to send (20_memory R62). -/
def State.usesBus (s : State) (i : Instr) : Bool :=
  if i = .touchRead then s.calValid else (s.displayPlan i).isSome

/-! ### What a touch read collects -/

/-- The events and the raw value of one axis of sample i: each sample draws four received bytes, two for the
axis read first and then two for the other (44_touch R174). -/
def State.axisEvents (s : State) (cmd : Byte) (i : Nat) : List Event :=
  wireAxis cmd (s.receivedAt i) (s.receivedAt (i + 1))

/-- The command byte of the axis read first (44_touch R174). -/
def State.firstCmd (s : State) : Byte :=
  match s.params.axisFirst with
  | .x => s.params.cmdReadX
  | .y => s.params.cmdReadY

/-- The command byte of the axis read second. -/
def State.secondCmd (s : State) : Byte :=
  match s.params.axisFirst with
  | .x => s.params.cmdReadY
  | .y => s.params.cmdReadX

/-- The events of sample i (44_touch R173, R174). -/
def State.sampleEvents (s : State) (i : Nat) : List Event :=
  .press .low :: (s.axisEvents s.firstCmd (4 * i) ++ s.axisEvents s.secondCmd (4 * i + 2))

/-- The events of sample i when its transfer number j, from 0, fails (44_touch R174, R184). -/
def State.cutSampleEvents (s : State) (i j : Nat) : List Event :=
  .press .low ::
    match j with
    | 0 => [.txFail [s.firstCmd]]
    | 1 => [.tx [s.firstCmd], .txRxFail [0x00, 0x00]]
    | 2 => s.axisEvents s.firstCmd (4 * i) ++ [.txFail [s.secondCmd]]
    | _ => s.axisEvents s.firstCmd (4 * i) ++ [.tx [s.secondCmd], .txRxFail [0x00, 0x00]]

/-- Raw X of sample i. -/
def State.rawX (s : State) (i : Nat) : U16 :=
  match s.params.axisFirst with
  | .x => be16 (s.receivedAt (4 * i)) (s.receivedAt (4 * i + 1))
  | .y => be16 (s.receivedAt (4 * i + 2)) (s.receivedAt (4 * i + 3))

/-- Raw Y of sample i. -/
def State.rawY (s : State) (i : Nat) : U16 :=
  match s.params.axisFirst with
  | .x => be16 (s.receivedAt (4 * i + 2)) (s.receivedAt (4 * i + 3))
  | .y => be16 (s.receivedAt (4 * i)) (s.receivedAt (4 * i + 1))

/-- The exact sum of the first n raw values of one axis (44_touch R175). -/
def rawSum (raw : Nat → U16) (n : Nat) : Nat := ((List.range n).map fun i => (raw i).toNat).sum

end Sys2Proof.Machine
end

