-- ==== Sys2Proof/WellFormed.lean ====
section
/-! DEFINITION. Which requests can be spelled: the two length limits of 30_encoding R83. Every other operand
is legal at every value of its width (R84). -/

namespace Sys2Proof

/-- A payload is at most `PAYLOAD_MAX` long, a text at most `TEXT_MAX` (30_encoding R83). -/
def Instr.wellFormed (p : Params) : Instr → Bool
  | .cfgSurface _ _ _ => true
  | .cfgCal _ _ _ _ _ _ => true
  | .cfgSamples _ => true
  | .init => true
  | .frame _ payload => decide (payload.length ≤ p.payloadMax)
  | .fillRect _ _ _ _ _ => true
  | .fillScreen _ => true
  | .clear => true
  | .writeString _ _ _ _ _ text => decide (text.length ≤ p.textMax)
  | .touchRead => true

end Sys2Proof
end

