-- ==== Sys2Proof/Certificates/Slice0/Obligations.lean ====
section
/-! DEFINITION. What is to be proved of the model. Each statement's docstring names the rule of spec/ it formalises;
OBLIGATIONS.json lists them. A name such as `start` marks no program: every statement is about one request or one
step, for every state that meets its premises. -/

open Sys2Proof Sys2Proof.Machine

/-! ### Encoding and decoding (30_encoding) -/

/-- Decoding the bytes of a well-formed request gives it back, for every request and all operands
(30_encoding R79 to R81). -/
def Obligations.DecodeOfEncodeIsTheRequest : Prop :=
  ∀ (p : Params) (i : Instr), p.legal = true → i.wellFormed p = true → decode p (encode i) = .ok i

/-- Each request has one spelling: bytes that decode are its encoding, of the length its format gives, within
the limits (30_encoding R79, R80, R83). -/
def Obligations.DecodedBytesAreTheEncoding : Prop :=
  ∀ (p : Params) (bytes : List Byte) (i : Instr), decode p bytes = .ok i →
    encode i = bytes ∧ bytes.length = i.requestLength ∧ i.wellFormed p = true

/-- 30_encoding R83: bytes that are empty, have a reserved opcode, have not the exact length of their format, or
state a length over its limit are answered ERR_ILLEGAL, with no transport call and no state change other than
the result registers. -/
def Obligations.IllegalBytesAreAnsweredErrIllegal : Prop :=
  ∀ (s : State) (bytes : List Byte) (rest : List (List Byte)),
    s.seq = .idle → s.env.requests = bytes :: rest →
    (bytes = [] ∨
     bytes.headD 0 ∉ ([0x01, 0x02, 0x03, 0x10, 0x20, 0x30, 0x31, 0x32, 0x40, 0x50] : List Byte) ∨
     bytes.length ≠ statedLength bytes ∨
     (bytes.headD 0 = 0x20 ∧ s.params.payloadMax < statedLength bytes - 6) ∨
     (bytes.headD 0 = 0x40 ∧ s.params.textMax < statedLength bytes - 12)) →
    ∃ t, step s = .next t ∧ Answered s t 0x84 0 0 ∧ OnlyResultsChange { s with env.requests := rest } t

/-- All other bytes decode to a request (30_encoding R83, R84). -/
def Obligations.OtherBytesDecode : Prop :=
  ∀ (p : Params) (bytes : List Byte),
    bytes ≠ [] →
    bytes.headD 0 ∈ ([0x01, 0x02, 0x03, 0x10, 0x20, 0x30, 0x31, 0x32, 0x40, 0x50] : List Byte) →
    bytes.length = statedLength bytes →
    (bytes.headD 0 = 0x20 → statedLength bytes - 6 ≤ p.payloadMax) →
    (bytes.headD 0 = 0x40 → statedLength bytes - 12 ≤ p.textMax) →
    ∃ i, decode p bytes = .ok i

/-- Words written out from the table of 30_encoding R80, one of each family, decode to their requests, whatever
the limits that admit them. -/
def Obligations.WrittenOutWordsDecode : Prop :=
  ∀ p : Params, 2 ≤ p.payloadMax → 1 ≤ p.textMax →
    decode p [0x01, 0x00, 0xF0, 0x01, 0x40, 0x60] = .ok (.cfgSurface 240 320 0x60) ∧
    decode p [0x02, 0x05, 0xDC, 0x79, 0x18, 0x0C, 0xCC, 0x75, 0x9E, 0x00, 0xF0, 0x01, 0x40] =
      .ok (.cfgCal 1500 31000 3276 30110 240 320) ∧
    decode p [0x10] = .ok .init ∧
    decode p [0x20, 0x36, 0x00, 0x00, 0x00, 0x02, 0x11, 0x22] = .ok (.frame 0x36 [0x11, 0x22]) ∧
    decode p [0x30, 0x01, 0x00, 0x01, 0x01, 0x00, 0x02, 0x00, 0x03, 0x12, 0x34] =
      .ok (.fillRect 256 257 2 3 0x1234) ∧
    decode p [0x40, 0x00, 0x01, 0x00, 0x02, 0x03, 0xFF, 0xFF, 0x00, 0x1F, 0x00, 0x01, 0x41] =
      .ok (.writeString 1 2 3 0xFFFF 0x001F [0x41]) ∧
    decode p [0x50] = .ok .touchRead

/-! ### Steps (10_state R11, R12) -/

/-- The block, IDLE, takes the next request off the port and executes what it decodes to. -/
def Obligations.StepRunsTheDecodedRequest : Prop :=
  ∀ (s : State) (bytes : List Byte) (rest : List (List Byte)) (i : Instr),
    s.seq = .idle → s.env.requests = bytes :: rest → decode s.params bytes = .ok i →
    step s = exec i { s with env.requests := rest }

/-- With no request the block waits and keeps all state (log 7). -/
def Obligations.StepWaitsWithoutRequest : Prop :=
  ∀ s : State, s.seq = .idle → s.env.requests = [] → step s = .next s

/-- A word of the opcode table placed by `withFetchWord` is the request the very next step takes (log 6). -/
def Obligations.FetchWordRunsNext : Prop :=
  ∀ (s : State) (nbits w : Nat) (i : Instr), s.seq = .idle →
    decode s.params (tableRequest nbits w) = .ok i →
    step (s.withFetchWord nbits w) = exec i s

/-- "A request always ends" when every transport call returns: it answers and the block is IDLE (10_state R12,
60_exceptions R240). -/
def Obligations.EveryRequestEnds : Prop :=
  ∀ (i : Instr) (s : State), s.AllCallsReturn → ∃ t, exec i s = .next t ∧ t.seq = .idle

/-- A request whose call never returns does not end: one that ended made only calls before it (60_exceptions
R240). Also every request keeps the history of calls made before it. That a hang is fixed by the number of the call
is the model's form (log 3). -/
def Obligations.NoRequestOutlivesAHang : Prop :=
  ∀ (i : Instr) (s t : State) (k : Nat), s.env.neverReturns = some (s.env.calls + k) →
    exec i s = .next t → t.seq = .idle →
    ∃ l, t.trace = s.trace ++ l ∧ l.length ≤ k

/-- 60_exceptions R240: a hung request leaves the block BUSY with its request and position, no response emitted,
the select line of its scope asserted once it has been, and no later request taken. The outstanding call has
no effect and no event (log 3). -/
def Obligations.HangHoldsTheSelectLine : Prop :=
  ∀ (i : Instr) (s t : State), exec i s = .next t → t.seq ≠ .idle →
    ∃ l call, t.seq = .busy i ⟨l.length, some call⟩ ∧ t.trace = s.trace ++ l ∧
      t.responses = s.responses ∧ t.status = s.status ∧ t.resX = s.resX ∧ t.resY = s.resY ∧
      t.env.requests = s.env.requests ∧ t.initDone = s.initDone ∧
      (l ≠ [] → (if i = .touchRead then t.csTouch else t.csDisp) = .asserted) ∧
      step t = .fault .transportCallNeverReturned

/-! ### Reset (70_reset_and_hazards R250) -/

/-- 70_reset R250: the state after reset, in every register to which the spec gives a value. -/
def Obligations.ResetLeavesTheStatedValues : Prop :=
  State.reset.seq = .idle ∧ State.reset.surfW = 0 ∧ State.reset.surfH = 0 ∧ State.reset.rotMask = 0 ∧
  State.reset.nSamples = 16 ∧ State.reset.calValid = false ∧ State.reset.initDone = false ∧
  State.reset.csDisp = .deasserted ∧ State.reset.csTouch = .deasserted ∧ State.reset.status = 0x00 ∧
  State.reset.resX = 0 ∧ State.reset.resY = 0 ∧ State.reset.trace = [] ∧ State.reset.responses = []

/-! ### Configuration requests (45_config) -/

/-- 45_config R200: CFG_SURFACE, six bytes, writes the three surface registers and answers OK, or, once INIT is
done, leaves them and answers ERR_LOCKED; nothing else but the result registers changes. -/
def Obligations.CfgSurfaceWritesTheSurface : Prop :=
  ∀ (w h : U16) (rot : Byte) (s : State),
    encode (.cfgSurface w h rot) = [0x01, hi8 w, lo8 w, hi8 h, lo8 h, rot] ∧
    ∃ t, exec (.cfgSurface w h rot) s = .next t ∧
      (s.initDone = true → Answered s t 0x83 0 0 ∧ OnlyResultsChange s t) ∧
      (s.initDone = false → Answered s t 0x00 0 0 ∧
        OnlyResultsChange { s with surfW := w, surfH := h, rotMask := rot } t)

/-- 45_config R202: CFG_CAL, 13 bytes, writes the six registers and CAL_VALID together and answers OK, or, when
min >= max on an axis, leaves them all and answers ERR_CONFIG; nothing else but the result registers changes. -/
def Obligations.CfgCalWritesAllOrNothing : Prop :=
  ∀ (minX maxX minY maxY scaleX scaleY : U16) (s : State),
    encode (.cfgCal minX maxX minY maxY scaleX scaleY) =
      [0x02, hi8 minX, lo8 minX, hi8 maxX, lo8 maxX, hi8 minY, lo8 minY, hi8 maxY, lo8 maxY, hi8 scaleX, lo8 scaleX,
       hi8 scaleY, lo8 scaleY] ∧
    ∃ t, exec (.cfgCal minX maxX minY maxY scaleX scaleY) s = .next t ∧
      ((minX.toNat ≥ maxX.toNat ∨ minY.toNat ≥ maxY.toNat) → Answered s t 0x81 0 0 ∧ OnlyResultsChange s t) ∧
      (minX.toNat < maxX.toNat → minY.toNat < maxY.toNat → Answered s t 0x00 0 0 ∧
        OnlyResultsChange { s with
          calMinX := minX, calMaxX := maxX, calMinY := minY, calMaxY := maxY
          scaleX := scaleX, scaleY := scaleY, calValid := true } t)

/-- 45_config R204: CFG_SAMPLES, 3 bytes, writes N_SAMPLES and answers OK, or, for 0, leaves it and answers
ERR_CONFIG; nothing else but the result registers changes. -/
def Obligations.CfgSamplesWritesTheCount : Prop :=
  ∀ (n : U16) (s : State),
    encode (.cfgSamples n) = [0x03, hi8 n, lo8 n] ∧
    ∃ t, exec (.cfgSamples n) s = .next t ∧
      (n = 0 → Answered s t 0x81 0 0 ∧ OnlyResultsChange s t) ∧
      (n ≠ 0 → Answered s t 0x00 0 0 ∧ OnlyResultsChange { s with nSamples := n } t)

/-- 45_config R205: a configuration request makes no transport call, reads no input line (no draw is made), and
ends at once with OK, ERR_CONFIG or ERR_LOCKED. -/
def Obligations.ConfigRequestsStayOffTheBus : Prop :=
  ∀ (i : Instr) (s : State),
    ((∃ w h rot, i = .cfgSurface w h rot) ∨ (∃ a b c d e f, i = .cfgCal a b c d e f) ∨ (∃ n, i = .cfgSamples n)) →
    ∃ t, exec i s = .next t ∧ t.seq = .idle ∧ t.trace = s.trace ∧ t.lines = s.lines ∧ t.rst = s.rst ∧
      t.env = s.env ∧ t.status ∈ ([0x00, 0x81, 0x83] : List Byte)

/-! ### The framer (40_framer) -/

/-- 40_framer R102: `send_data` makes exactly ceil(L / C) transmits after one mode call; the chunks concatenate to
the payload, each has 1 to C bytes, every one but the last exactly C, and the last the rest. -/
def Obligations.SendDataSplitsIntoChunks : Prop :=
  ∀ (p : List Byte) (s : State), 1 ≤ s.params.chunkMax → s.AllCallsReturn →
    s.TransfersOk (ceilDiv p.length s.params.chunkMax) →
    ∃ (t : State) (l : List (List Byte)), sendData p s = .ok () t ∧
      t.trace = s.trace ++ .mode .data :: l.map Event.tx ∧
      l.length = (p.length + s.params.chunkMax - 1) / s.params.chunkMax ∧ l.flatten = p ∧
      (∀ k c, l[k]? = some c → 1 ≤ c.length ∧
        c.length = (if k + 1 < l.length then s.params.chunkMax
                    else p.length - s.params.chunkMax * (l.length - 1)) ∧
        c.length ≤ s.params.chunkMax ∧
        c = (p.drop (k * s.params.chunkMax)).take s.params.chunkMax)

/-- 40_framer R108: FRAME sends, in one scope of the display, the command byte under COMMAND and the payload under
DATA in chunks, and answers OK; its frame. -/
def Obligations.FrameSendsCommandAndPayload : Prop :=
  ∀ (cmd : Byte) (payload : List Byte) (s : State), s.AllCallsReturn →
    s.TransfersOk (1 + ceilDiv payload.length s.params.chunkMax) →
    ∃ t, exec (.frame cmd payload) s = .next t ∧
      t.trace = s.trace ++ ([.sel .disp, .mode .command, .tx [cmd]] ++
        (if payload = [] then [] else .mode .data :: (chunks s.params.chunkMax payload).map Event.tx) ++
        [.desel .disp]) ∧
      Answered s t 0x00 0 0 ∧ t.dc = (if payload = [] then .command else .data) ∧
      DisplayFrame s t ∧ t.rst = s.rst ∧ t.initDone = s.initDone

/-- 40_framer R105, 60_exceptions R226: the first failed transmit of any request that uses the display ends it:
nothing more is sent, the scope is closed, the answer is ERR_TRANSPORT, DC keeps its last value, no
configuration register changes and INIT_DONE is not set. `plan` is what the request would have sent. -/
def Obligations.FirstFailedTransmitEndsTheRequest : Prop :=
  ∀ (i : Instr) (s : State) (plan : List Event) (k d : Nat), s.displayPlan i = some plan →
    s.AllCallsReturn → k < txCount plan → s.TransfersOk k → s.transferAt k = .fail d →
    ∃ t before bytes after, plan = before ++ .tx bytes :: after ∧ txCount before = k ∧
      exec i s = .next t ∧
      t.trace = s.trace ++ (.sel .disp :: before ++ [.txFail bytes, .desel .disp]) ∧
      Answered s t 0x80 0 0 ∧ DisplayFrame s t ∧ t.initDone = s.initDone ∧
      t.dc = (before.foldl Lines.apply s.lines).dc ∧
      t.rst = (if i = .init then .high else s.rst)

/-- 40_framer R111: for any two chunk limits the wire views of `send_data(p)` are equal, and equal to that of
`Mode(D) Tx(p)`; `send_data(p ++ q)`, and `send_data(p)` followed by `send_data(q)`, have the same wire view and
different call traces. -/
def Obligations.WireViewHidesChunks : Prop :=
  ∀ (p q : List Byte) (s s' : State),
    1 ≤ s.params.chunkMax → 1 ≤ s'.params.chunkMax → s'.lines = s.lines →
    s.AllCallsReturn → s'.AllCallsReturn →
    s.TransfersOk (ceilDiv p.length s.params.chunkMax + ceilDiv q.length s.params.chunkMax) →
    s'.TransfersOk (ceilDiv p.length s'.params.chunkMax) →
    ∃ t t' u v l l' m n,
      sendData p s = .ok () t ∧ t.trace = s.trace ++ l ∧
      sendData p s' = .ok () t' ∧ t'.trace = s'.trace ++ l' ∧
      sendData q t = .ok () u ∧ u.trace = s.trace ++ m ∧
      sendData (p ++ q) s = .ok () v ∧ v.trace = s.trace ++ n ∧
      wireView s.lines l = wireView s.lines l' ∧
      wireView s.lines l = wireView s.lines [.mode .data, .tx p] ∧
      wireView s.lines m = wireView s.lines n ∧ m ≠ n

/-- "no listener-visible distinction between a one-shot and a chunked transfer": two blocks that differ in their
chunk limit (and in nothing else they read) answer a display request with the same wire view and the same
response, when no transfer fails (20_memory R58, 40_framer R111; log 10). -/
def Obligations.ListenerCannotSeeTheChunkLimit : Prop :=
  ∀ (i : Instr) (s : State) (c : Nat) (plan plan' : List Event),
    s.displayPlan i = some plan → 1 ≤ s.params.chunkMax → 1 ≤ c →
    ({ s with params.chunkMax := c } : State).displayPlan i = some plan' →
    s.AllCallsReturn → s.TransfersOk (txCount plan) → s.TransfersOk (txCount plan') →
    ∃ t t' l l', exec i s = .next t ∧ exec i { s with params.chunkMax := c } = .next t' ∧
      t.trace = s.trace ++ l ∧ t'.trace = s.trace ++ l' ∧
      wireView s.lines l = wireView s.lines l' ∧ t.lines = t'.lines ∧ t.responses = t'.responses

/-! ### The byte streams (20_memory R52) -/

/-- A request, from a state with no line selected, adds nothing to the stream of the controller it does not select,
whether it ends, meets a failure or hangs: a display request sends the touch controller nothing, and TOUCH_READ the
display nothing (20_memory R52, 70_reset R262). The delivered prefixes are the model's record (log 9). -/
def Obligations.EachRequestReachesOneController : Prop :=
  ∀ (i : Instr) (s t : State), s.csDisp = .deasserted → s.csTouch = .deasserted → exec i s = .next t →
    ∃ l cuts, t.trace = s.trace ++ l ∧ t.cutPrefixes = s.cutPrefixes ++ cuts ∧ CutsFit cuts l ∧
      (i ≠ .touchRead → touchStream s.lines cuts l = []) ∧
      (i = .touchRead → displayStream s.lines cuts l = [])

/-- What the display receives of a FRAME, however it goes, is an initial part of the command byte under COMMAND and
the payload under DATA, in order, nothing repeated or altered; all of it when the answer is OK (40_framer R104, R105;
20_memory R52, R65). It holds whatever part of a failed transfer was delivered (log 9). -/
def Obligations.FrameReachesTheDisplayInOrder : Prop :=
  ∀ (cmd : Byte) (payload : List Byte) (s t : State), 1 ≤ s.params.chunkMax → s.csDisp = .deasserted →
    exec (.frame cmd payload) s = .next t →
    ∃ l cuts, t.trace = s.trace ++ l ∧ t.cutPrefixes = s.cutPrefixes ++ cuts ∧
      displayStream s.lines cuts l <+: (DcMode.command, cmd) :: payload.map (fun b => (DcMode.data, b)) ∧
      (t.seq = .idle → t.status = 0x00 →
        displayStream s.lines cuts l = (DcMode.command, cmd) :: payload.map (fun b => (DcMode.data, b)))

/-- What the touch controller receives and answers in a TOUCH_READ with all N samples: for each sample and axis the
command byte, two zero bytes, and the two bytes it answers (20_memory R52, 44_touch R174; their order in an exchange
is the model's, log 9). -/
def Obligations.TouchReadReachesTheTouchController : Prop :=
  ∀ s : State, s.calValid = true → s.AllCallsReturn → s.PressedFor s.nSamples.toNat →
    s.TransfersOk (4 * s.nSamples.toNat) →
    let axis := fun cmd k => [TouchItem.received cmd, .received 0x00, .received 0x00,
      .answered (s.receivedAt k), .answered (s.receivedAt (k + 1))]
    ∃ t l, exec .touchRead s = .next t ∧ t.trace = s.trace ++ l ∧ t.cutPrefixes = s.cutPrefixes ∧
      touchStream s.lines [] l = (List.range s.nSamples.toNat).flatMap fun i =>
        axis s.firstCmd (4 * i) ++ axis s.secondCmd (4 * i + 2)

/-! ### The address window engine (41_address_window) -/

/-- 41_address_window R126: FILL_RECT programs the clipped window and sends the colour w' * h' times, high byte
first, in one scope, and answers OK; the window stays inside the surface (R127 a); its frame. -/
def Obligations.FillRectDrawsTheClippedRectangle : Prop :=
  ∀ (x y w h color : U16) (s : State),
    x.toNat < s.surfW.toNat → y.toNat < s.surfH.toNat → w ≠ 0 → h ≠ 0 → s.AllCallsReturn →
    let w' := if s.surfW.toNat < x.toNat + w.toNat then s.surfW.toNat - x.toNat else w.toNat
    let h' := if s.surfH.toNat < y.toNat + h.toNat then s.surfH.toNat - y.toNat else h.toNat
    s.TransfersOk (3 + 2 * ceilDiv 4 s.params.chunkMax + w' * h' * ceilDiv 2 s.params.chunkMax) →
    ∃ t x1 y1, exec (.fillRect x y w h color) s = .next t ∧
      BitVec.toNat x1 = x.toNat + w' - 1 ∧ BitVec.toNat y1 = y.toNat + h' - 1 ∧
      x.toNat ≤ x1.toNat ∧ x1.toNat < s.surfW.toNat ∧ y.toNat ≤ y1.toNat ∧ y1.toNat < s.surfH.toNat ∧
      t.trace = s.trace ++ (.sel .disp :: wireWindow s.params x y x1 y1 ++
        (List.replicate (w' * h') (wireData s.params.chunkMax [hi8 color, lo8 color])).flatten ++
        [.desel .disp]) ∧
      Answered s t 0x00 0 0 ∧ t.dc = .data ∧ DisplayFrame s t ∧ t.rst = s.rst ∧ t.initDone = s.initDone

/-- 41_address_window R125: a fill outside the surface, or with a zero extent, makes no transport call, changes
nothing but the result registers and answers OK. -/
def Obligations.FillRectOutsideIsANoOp : Prop :=
  ∀ (x y w h color : U16) (s : State),
    (s.surfW.toNat ≤ x.toNat ∨ s.surfH.toNat ≤ y.toNat ∨ w = 0 ∨ h = 0) →
    ∃ t, exec (.fillRect x y w h color) s = .next t ∧ Answered s t 0x00 0 0 ∧ OnlyResultsChange s t

/-- 41_address_window R128, R129: FILL_SCREEN and CLEAR draw the whole surface, CLEAR in DEFAULT_COLOR; on an
empty surface they are the no-op; their frame. -/
def Obligations.FillScreenAndClearDrawTheSurface : Prop :=
  ∀ (i : Instr) (color : U16) (s : State),
    (i = .fillScreen color ∨ (i = .clear ∧ color = s.params.defaultColor)) → s.AllCallsReturn →
    s.TransfersOk (3 + 2 * ceilDiv 4 s.params.chunkMax +
      s.surfW.toNat * s.surfH.toNat * ceilDiv 2 s.params.chunkMax) →
    ∃ t, exec i s = .next t ∧ Answered s t 0x00 0 0 ∧
      ((s.surfW = 0 ∨ s.surfH = 0) → t.trace = s.trace ∧ t.dc = s.dc ∧ t.csDisp = s.csDisp) ∧
      (s.surfW ≠ 0 → s.surfH ≠ 0 →
        t.trace = s.trace ++ (.sel .disp :: wireWindow s.params 0 0 (s.surfW - 1) (s.surfH - 1) ++
          (List.replicate (s.surfW.toNat * s.surfH.toNat)
            (wireData s.params.chunkMax [hi8 color, lo8 color])).flatten ++ [.desel .disp]) ∧
        t.dc = .data ∧ t.csDisp = .deasserted) ∧
      SameSurface s t ∧ SameCalibration s t ∧ SameSums s t ∧ t.nSamples = s.nSamples ∧
      t.initDone = s.initDone ∧ t.csTouch = s.csTouch ∧ t.rst = s.rst ∧ t.params = s.params ∧
      t.env.requests = s.env.requests

/-- 41_address_window R128: "`fill_screen(color)` is `fill_rect(0, 0, width, height, color)`", failures included;
CLEAR is FILL_SCREEN of DEFAULT_COLOR (R129). -/
def Obligations.FillScreenIsFillRectOfTheSurface : Prop :=
  ∀ (color : U16) (s : State), s.AllCallsReturn →
    exec (.fillScreen color) s = exec (.fillRect 0 0 s.surfW s.surfH color) s ∧
    exec .clear s = exec (.fillScreen s.params.defaultColor) s

/-- 41_address_window R127 d, 43_glyph_renderer R154: with C >= 4 a window with n pixels makes 5 + n mode calls and
5 + n transmits. -/
def Obligations.CellEventCounts : Prop :=
  ∀ (p : Params) (x y w h : Nat) (pixels : List U16), 4 ≤ p.chunkMax →
    modeCount (wireCell p x y w h pixels) = 5 + pixels.length ∧
    txCount (wireCell p x y w h pixels) = 5 + pixels.length

/-- 41_address_window R120: red lands in bits 15 to 11, green in 10 to 5, blue in 4 to 0; the low 3 bits of red and
blue and the low 2 of green are dropped. -/
def Obligations.ColourPacking : Prop :=
  ∀ r g b : Byte,
    (color565 r g b).extractLsb' 11 5 = r.extractLsb' 3 5 ∧
    (color565 r g b).extractLsb' 5 6 = g.extractLsb' 2 6 ∧
    (color565 r g b).extractLsb' 0 5 = b.extractLsb' 3 5

/-- 41_address_window R121: exactly 256 different 24-bit inputs give each 16-bit colour. -/
def Obligations.ColourHas256Preimages : Prop :=
  ∀ v : U16, Set.ncard { c : Byte × Byte × Byte | color565 c.1 c.2.1 c.2.2 = v } = 256

/-! ### The init sequencer (42_init_sequencer) -/

/-- 42_init_sequencer R141: INIT selects the display, pulses the reset line, replays the table with its delays,
deselects, sets INIT_DONE and answers OK; its frame. DC is left as the last entry's frame leaves it (40_framer
R107). -/
def Obligations.InitReplaysTheTable : Prop :=
  ∀ s : State, s.initDone = false → s.AllCallsReturn → s.TransfersOk (txCount (wireInit s.params)) →
    ∃ t, exec .init s = .next t ∧
      t.trace = s.trace ++ ([.sel .disp, .rst .low] ++
        (if s.params.rstLowMs > 0 then [.delay s.params.rstLowMs] else []) ++ [.rst .high] ++
        (if s.params.rstHighMs > 0 then [.delay s.params.rstHighMs] else []) ++
        s.params.initTable.flatMap (fun e => wireFrame s.params.chunkMax e.command e.payload ++
          (if e.postDelayMs > 0 then [.delay e.postDelayMs] else [])) ++ [.desel .disp]) ∧
      Answered s t 0x00 0 0 ∧ t.initDone = true ∧ t.rst = .high ∧
      (s.params.initTable = [] → t.dc = s.dc) ∧
      (∀ e, s.params.initTable.getLast? = some e → t.dc = (if e.payload = [] then .command else .data)) ∧
      DisplayFrame s t

/-- 42_init_sequencer R141, 60_exceptions R229: with INIT_DONE = 1, INIT answers ERR_LOCKED and nothing but the
result registers changes. -/
def Obligations.SecondInitIsLocked : Prop :=
  ∀ s : State, s.initDone = true →
    ∃ t, exec .init s = .next t ∧ Answered s t 0x83 0 0 ∧ OnlyResultsChange s t

/-- 42_init_sequencer R142: INIT is the only request that drives RST and the only one that calls `delay_ms`; it
reads no configuration register other than INIT_DONE: two blocks that agree on it, and in nothing else but
their parameters and the draws it can make, make the same calls and end with the same kind. -/
def Obligations.OnlyInitDrivesResetAndDelays : Prop :=
  (∀ (i : Instr) (s t : State), i ≠ .init → exec i s = .next t →
    t.rst = s.rst ∧ ∃ l, t.trace = s.trace ++ l ∧ (∀ level, .rst level ∉ l) ∧ (∀ n, .delay n ∉ l)) ∧
  (∀ s s' t t' : State, s'.params = s.params → s'.initDone = s.initDone →
    SameDraws s s' (txCount (wireInit s.params)) 0 0 ((wireInit s.params).length + 2) →
    exec .init s = .next t → exec .init s' = .next t' →
    ∃ l, t.trace = s.trace ++ l ∧ t'.trace = s'.trace ++ l ∧ t'.seq = t.seq ∧
      (t.seq = .idle → t'.status = t.status))

/-! ### The glyph renderer (43_glyph_renderer) -/

/-- 43_glyph_renderer R155: a text that is not refused is drawn cell by cell where the layout puts its characters,
in one scope, and answered OK; its frame. A drawn glyph leaves DC at DATA (41_address_window R123). -/
def Obligations.WriteStringDrawsTheLaidOutText : Prop :=
  ∀ (x y : U16) (font : Byte) (fg bg : U16) (text : List Byte) (s : State) (f : Font),
    s.params.fonts[font.toNat]? = some f → f.gw ≤ s.surfW.toNat → f.gh ≤ s.surfH.toNat →
    y.toNat + f.gh ≤ s.surfH.toNat → (∀ ch ∈ text, 32 ≤ ch.toNat ∧ ch.toNat < 32 + f.count) →
    s.AllCallsReturn →
    let placed := layout s.surfW.toNat s.surfH.toNat f.gw f.gh text x.toNat y.toNat
    s.TransfersOk (placed.length * (3 + 2 * ceilDiv 4 s.params.chunkMax +
      f.gw * f.gh * ceilDiv 2 s.params.chunkMax)) →
    ∃ t, exec (.writeString x y font fg bg text) s = .next t ∧
      t.trace = s.trace ++ (.sel .disp :: placed.flatMap (fun c =>
        wireWindow s.params (BitVec.ofNat 16 c.x) (BitVec.ofNat 16 c.y) (BitVec.ofNat 16 (c.x + f.gw - 1))
          (BitVec.ofNat 16 (c.y + f.gh - 1)) ++
        (glyphPixels s.params.rowBits f c.code.toNat fg bg).flatMap fun px =>
          wireData s.params.chunkMax [hi8 px, lo8 px]) ++ [.desel .disp]) ∧
      Answered s t 0x00 0 0 ∧ (placed = [] → t.dc = s.dc) ∧
      (placed ≠ [] → 1 ≤ f.gw → 1 ≤ f.gh → t.dc = .data) ∧ DisplayFrame s t ∧ t.rst = s.rst ∧
      t.initDone = s.initDone

/-- 43_glyph_renderer R158: no such font, a glyph larger than the surface, a first line below it, or a character
without a glyph is answered ERR_OPERAND, with no transport call and nothing but the result registers changed. -/
def Obligations.WriteStringRefusals : Prop :=
  ∀ (x y : U16) (font : Byte) (fg bg : U16) (text : List Byte) (s : State),
    (s.params.fonts.length ≤ font.toNat ∨
     ∃ f, s.params.fonts[font.toNat]? = some f ∧
      (s.surfW.toNat < f.gw ∨ s.surfH.toNat < f.gh ∨ s.surfH.toNat < y.toNat + f.gh ∨
       ∃ ch ∈ text, ch.toNat < 32 ∨ 32 + f.count ≤ ch.toNat)) →
    ∃ t, exec (.writeString x y font fg bg text) s = .next t ∧ Answered s t 0x82 0 0 ∧ OnlyResultsChange s t

/-- 43_glyph_renderer R159: every cell lies inside the surface; the characters drawn are a prefix of the text;
character i goes where the rule says, and is drawn just when its line fits; how many are drawn. -/
def Obligations.LayoutPlacesEachCharacter : Prop :=
  ∀ (W H gw gh x y : Nat) (text : List Byte), 1 ≤ gw → 1 ≤ gh → gw ≤ W → y + gh ≤ H →
    let placed := layout W H gw gh text x y
    let k0 := if x ≤ W then (W - x) / gw else 0
    let K := W / gw
    let line := fun i => if i < k0 then 0 else 1 + (i - k0) / K
    (∀ c ∈ placed, c.x + gw ≤ W ∧ c.y + gh ≤ H) ∧
    placed.map Placed.code <+: text ∧
    (∀ i c, placed[i]? = some c →
      (c.x, c.y) = (if i < k0 then x + i * gw else (i - k0) % K * gw, y + line i * gh)) ∧
    (∀ i, i < text.length → (i < placed.length ↔ y + line i * gh + gh ≤ H)) ∧
    placed.length = min text.length (k0 + K * ((H - y - gh) / gh))

/-- 43_glyph_renderer R152, R153: a character cell has gw * gh pixels, rows top to bottom and columns left to right,
each the foreground when bit ROW_BITS - 1 - col of its glyph row is 1. -/
def Obligations.GlyphCellIsRowMajor : Prop :=
  ∀ (rowBits : Nat) (f : Font) (code : Nat) (fg bg : U16),
    (glyphPixels rowBits f code fg bg).length = f.gw * f.gh ∧
    ∀ row col bits, row < f.gh → col < f.gw → f.rows[(code - 32) * f.gh + row]? = some bits →
      (glyphPixels rowBits f code fg bg)[row * f.gw + col]? =
        some (if bits / 2 ^ (rowBits - 1 - col) % 2 = 1 then fg else bg)

/-- A legal font has a row for every character WRITE_STRING accepts, so a glyph lookup is never outside the table
(43_glyph_renderer R151). -/
def Obligations.GlyphLookupIsInTheTable : Prop :=
  ∀ (p : Params) (n : Nat) (f : Font) (code row : Nat), p.legal = true → p.fonts[n]? = some f →
    32 ≤ code → code < 32 + f.count → row < f.gh → (code - 32) * f.gh + row < f.rows.length

/-! ### The touch pipeline (44_touch) -/

/-- 44_touch R171: without a calibration TOUCH_READ answers ERR_CONFIG, makes no transport call and changes
nothing but the result registers. -/
def Obligations.TouchReadNeedsACalibration : Prop :=
  ∀ s : State, s.calValid = false →
    ∃ t, exec .touchRead s = .next t ∧ Answered s t 0x81 0 0 ∧ OnlyResultsChange s t

/-- 44_touch R170: pressed at all N checks with no failure, TOUCH_READ takes N samples in one scope of the touch
controller, averages, clamps, maps, flips Y and answers TOUCH; its frame, DC included. -/
def Obligations.TouchReadReportsTheMappedAverage : Prop :=
  ∀ s : State, s.calValid = true → s.calMinX.toNat < s.calMaxX.toNat → s.calMinY.toNat < s.calMaxY.toNat →
    s.nSamples ≠ 0 → s.AllCallsReturn → s.PressedFor s.nSamples.toNat → s.TransfersOk (4 * s.nSamples.toNat) →
    let n := s.nSamples.toNat
    let avgX := rawSum s.rawX n / n
    let avgY := rawSum s.rawY n / n
    let x := (max s.calMinX.toNat (min avgX s.calMaxX.toNat) - s.calMinX.toNat) * s.scaleX.toNat /
      (s.calMaxX.toNat - s.calMinX.toNat)
    let y := (max s.calMinY.toNat (min avgY s.calMaxY.toNat) - s.calMinY.toNat) * s.scaleY.toNat /
      (s.calMaxY.toNat - s.calMinY.toNat)
    ∃ t, exec .touchRead s = .next t ∧
      t.trace = s.trace ++ (.sel .touch :: (List.range n).flatMap s.sampleEvents ++ [.desel .touch]) ∧
      Answered s t 0x01 (BitVec.ofNat 16 x) (BitVec.ofInt 16 ((s.scaleY.toNat : Int) - 1 - (y : Int))) ∧
      t.resX.toNat = x ∧ x ≤ s.scaleX.toNat ∧ TouchFrame s t

/-- 44_touch R177: released at a check after c < N good samples, TOUCH_READ answers NO_TOUCH, averages nothing and
makes no further transfer; its frame. -/
def Obligations.EarlyReleaseIsNoTouch : Prop :=
  ∀ (s : State) (c : Nat), s.calValid = true → c < s.nSamples.toNat → s.AllCallsReturn → s.PressedFor c →
    s.pressAt c = .high → s.TransfersOk (4 * c) →
    ∃ t, exec .touchRead s = .next t ∧
      t.trace = s.trace ++ (.sel .touch :: (List.range c).flatMap s.sampleEvents ++
        [.press .high, .desel .touch]) ∧
      Answered s t 0x02 0 0 ∧ TouchFrame s t

/-- 44_touch R184: a failed transfer, the j-th of sample c, ends the read with ERR_TRANSPORT whatever had been
collected, after the one deselect; its frame. -/
def Obligations.TouchTransferFailureIsErrTransport : Prop :=
  ∀ (s : State) (c j d : Nat), s.calValid = true → c < s.nSamples.toNat → j < 4 → s.AllCallsReturn →
    s.PressedFor (c + 1) → s.TransfersOk (4 * c + j) → s.transferAt (4 * c + j) = .fail d →
    ∃ t, exec .touchRead s = .next t ∧
      t.trace = s.trace ++ (.sel .touch :: (List.range c).flatMap s.sampleEvents ++ s.cutSampleEvents c j ++
        [.desel .touch]) ∧
      Answered s t 0x80 0 0 ∧ TouchFrame s t

/-- The sums and the counter at the end of a touch read of c samples, whether all were taken, the line was released
or transfer j of the next sample failed, are the exact sums of the c samples and c (44_touch R175). That they stay
in the registers when the request has ended is the model's choice: U4 of 93_implementation_defined allows any
value between requests (log 20). -/
def Obligations.TouchReadLeavesItsSums : Prop :=
  ∀ (s : State) (c : Nat), s.calValid = true → s.AllCallsReturn → c ≤ s.nSamples.toNat → s.PressedFor c →
    s.TransfersOk (4 * c) →
    (c = s.nSamples.toNat ∨ s.pressAt c = .high ∨
     (s.pressAt c = .low ∧ ∃ j d, j < 4 ∧ s.TransfersOk (4 * c + j) ∧ s.transferAt (4 * c + j) = .fail d)) →
    ∃ t, exec .touchRead s = .next t ∧ t.sumX.toNat = rawSum s.rawX c ∧ t.sumY.toNat = rawSum s.rawY c ∧
      t.cnt = BitVec.ofNat 16 c

/-- 44_touch R186: the events of a TOUCH_READ that is not refused and meets no failure, with `CNT = c` at the end:
which they are, and how many of each. -/
def Obligations.TouchReadCounts : Prop :=
  ∀ s t : State, s.calValid = true → s.AllCallsReturn → s.params.cmdReadX ≠ s.params.cmdReadY →
    exec .touchRead s = .next t → t.status ≠ 0x80 →
    let c := t.cnt.toNat
    let n := s.nSamples.toNat
    c ≤ n ∧ ∃ l, t.trace = s.trace ++ l ∧
      l = .sel .touch :: (List.range c).flatMap s.sampleEvents ++
        (if c < n then [.press .high, .desel .touch] else [.desel .touch]) ∧
      l.count (.sel .touch) = 1 ∧ l.count (.desel .touch) = 1 ∧
      l.count (.press .low) + l.count (.press .high) = (if c < n then c + 1 else c) ∧
      l.count (.tx [s.params.cmdReadX]) = c ∧ l.count (.tx [s.params.cmdReadY]) = c ∧
      txCount l = 2 * c ∧ exchangeCount l = 2 * c ∧
      (∀ m, .mode m ∉ l) ∧ (∀ level, .rst level ∉ l) ∧ (∀ ms, .delay ms ∉ l)

/-- 44_touch R181, R187: the map clamps, multiplies and then divides; its range, both ends reached; it is monotone
for all raw values, and the flipped Y anti-monotone. -/
def Obligations.MapAxisRangeAndMonotone : Prop :=
  ∀ mn mx sc : Nat, mn < mx →
    (∀ raw, mapAxis raw mn mx sc = (max mn (min raw mx) - mn) * sc / (mx - mn)) ∧
    (∀ raw, mapAxis raw mn mx sc ≤ sc) ∧ (∀ raw, raw ≤ mn → mapAxis raw mn mx sc = 0) ∧
    (∀ raw, mx ≤ raw → mapAxis raw mn mx sc = sc) ∧
    (∀ r1 r2, r1 ≤ r2 → mapAxis r1 mn mx sc ≤ mapAxis r2 mn mx sc) ∧
    (∀ r1 r2, r1 ≤ r2 → yOut sc (mapAxis r2 mn mx sc) ≤ yOut sc (mapAxis r1 mn mx sc))

/-- 44_touch R188: only at the top of the range does the result leave the extent: below it both coordinates are
inside; at it x is the extent and y is -1, stored as 0xFFFF. -/
def Obligations.TopOfRangeCorner : Prop :=
  ∀ mn mx sc raw : Nat, mn < mx →
    (raw < mx → 1 ≤ sc → mapAxis raw mn mx sc ≤ sc - 1 ∧ 0 ≤ yOut sc (mapAxis raw mn mx sc) ∧
      yOut sc (mapAxis raw mn mx sc) ≤ (sc : Int) - 1) ∧
    (mx ≤ raw → yOut sc (mapAxis raw mn mx sc) = -1 ∧
      BitVec.ofInt 16 (yOut sc (mapAxis raw mn mx sc)) = 0xFFFF) ∧
    yOut 0 (mapAxis raw mn mx 0) = -1

/-- 44_touch R185: nothing carries over: under equal configuration and equal draws, two touch reads give equal
traces and equal responses, whatever the rest of the two states holds. Only the draws a touch read can make count,
not how many were made before, so that two touch reads of one run meet the premise. -/
def Obligations.TouchReadDependsOnDrawsAndCalibrationOnly : Prop :=
  ∀ s s' t t' : State, s'.params = s.params → s'.nSamples = s.nSamples → SameCalibration s s' →
    SameDraws s s' (4 * s.nSamples.toNat) (4 * s.nSamples.toNat) s.nSamples.toNat (5 * s.nSamples.toNat + 2) → exec .touchRead s = .next t → exec .touchRead s' = .next t' →
    ∃ l r, t.trace = s.trace ++ l ∧ t'.trace = s'.trace ++ l ∧ t'.seq = t.seq ∧
      t.responses = s.responses ++ r ∧ t'.responses = s'.responses ++ r ∧ (t.seq = .idle → r.length = 1)

/-! ### Whole-machine rules -/

/-- The invariant holds after reset. -/
def Obligations.ResetMeetsTheInvariant : Prop := Invariant State.reset

/-- Every step keeps the invariant: legal parameters, N_SAMPLES and calibration, the select-scope discipline of
the whole trace, legal status and results, one delivered prefix for each failed transfer, and BUSY only in a hang
(10_state R17, R18, R21, R27; 20_memory R61, R62, R65; 40_framer R110; 70_reset R260). That a BUSY state between
steps is a hang, and the integer and the delivered prefixes that are kept, are the model's (log 3, log 8, log 9). -/
def Obligations.StepKeepsTheInvariant : Prop :=
  ∀ s t : State, Invariant s → step s = .next t → Invariant t

/-- 60_exceptions R221: which request can end with which kind. -/
def Obligations.EachRequestEndsWithItsKinds : Prop :=
  ∀ (i : Instr) (s t : State), exec i s = .next t → t.seq = .idle →
    ∃ k ∈ requestKinds i, t.status = k.code

/-- 10_state R27, 30_encoding R92: every request that ends emits one response, the copy of the result registers, whose
coordinates are 0 unless the kind is TOUCH. -/
def Obligations.EachEndedRequestAnswersOnce : Prop :=
  ∀ (i : Instr) (s t : State), exec i s = .next t → t.seq = .idle →
    t.responses = s.responses ++ [⟨t.status, t.resX, t.resY⟩] ∧
    (t.status ≠ 0x01 → t.resX = 0 ∧ t.resY = 0) ∧
    (Response.bytes ⟨t.status, t.resX, t.resY⟩ =
      [t.status, hi8 t.resX, lo8 t.resX, hi8 t.resY, lo8 t.resY])

/-- 20_memory R62: a request that uses the bus opens exactly one scope, on its one device, makes all its calls
inside it and closes it on every way out; a refused request, or one with nothing to send, makes no call. -/
def Obligations.OneScopePerRequest : Prop :=
  ∀ (i : Instr) (s t : State), exec i s = .next t → t.seq = .idle →
    let dev := if i = .touchRead then Dev.touch else Dev.disp
    (s.usesBus i = false → t.trace = s.trace) ∧
    (s.usesBus i = true → ∃ l, t.trace = s.trace ++ (.sel dev :: l ++ [.desel dev]) ∧
      (∀ d, .sel d ∉ l) ∧ (∀ d, .desel d ∉ l))

/-- 60_exceptions R228, R229 (and the causes and entry of R227): just which requests end with ERR_CONFIG,
ERR_OPERAND and ERR_LOCKED, and that such a request makes no transport call and writes nothing but the result
registers. -/
def Obligations.RefusalsHaveTheirCauses : Prop :=
  ∀ (i : Instr) (s t : State), exec i s = .next t → t.seq = .idle →
    (t.status = 0x81 ↔
      (∃ a b c d e f, i = .cfgCal a b c d e f ∧ (a.toNat ≥ b.toNat ∨ c.toNat ≥ d.toNat)) ∨
      i = .cfgSamples 0 ∨ (i = .touchRead ∧ s.calValid = false)) ∧
    (t.status = 0x82 ↔ ∃ x y font fg bg text, i = .writeString x y font fg bg text ∧
      (s.params.fonts.length ≤ font.toNat ∨
       ∃ f, s.params.fonts[font.toNat]? = some f ∧
        (s.surfW.toNat < f.gw ∨ s.surfH.toNat < f.gh ∨ s.surfH.toNat < y.toNat + f.gh ∨
         ∃ ch ∈ text, ch.toNat < 32 ∨ 32 + f.count ≤ ch.toNat))) ∧
    (t.status = 0x83 ↔ s.initDone = true ∧ (i = .init ∨ ∃ w h rot, i = .cfgSurface w h rot)) ∧
    (t.status ∈ ([0x81, 0x82, 0x83] : List Byte) → t.resX = 0 ∧ t.resY = 0 ∧ OnlyResultsChange s t)

/-- 10_state R29, the "written by" column: which request can write which register, whether it ends or hangs. -/
def Obligations.RegistersHaveOneWriter : Prop :=
  ∀ (i : Instr) (s t : State), exec i s = .next t →
    ((∀ w h rot, i ≠ .cfgSurface w h rot) → SameSurface s t) ∧
    ((∀ n, i ≠ .cfgSamples n) → t.nSamples = s.nSamples) ∧
    ((∀ a b c d e f, i ≠ .cfgCal a b c d e f) → SameCalibration s t) ∧
    (i ≠ .init → t.initDone = s.initDone ∧ t.rst = s.rst) ∧
    (i ≠ .touchRead → SameSums s t ∧ t.csTouch = s.csTouch) ∧
    (i = .touchRead → t.csDisp = s.csDisp ∧ t.dc = s.dc) ∧
    ((∃ w h rot, i = .cfgSurface w h rot) ∨ (∃ a b c d e f, i = .cfgCal a b c d e f) ∨
      (∃ n, i = .cfgSamples n) →
      t.csDisp = s.csDisp ∧ t.csTouch = s.csTouch ∧ t.dc = s.dc ∧ t.trace = s.trace) ∧
    t.params = s.params ∧ t.env.requests = s.env.requests

/-- 42_init_sequencer R143, 60_exceptions R235: INIT_DONE is a one-way lock: once set, no request clears it or changes
the surface registers. -/
def Obligations.InitDoneLocksTheSurface : Prop :=
  ∀ (i : Instr) (s t : State), s.initDone = true → exec i s = .next t →
    t.initDone = true ∧ SameSurface s t
end

