-- ==== Sys2Proof/Laws/State.lean ====
section
/-! SUPPORT. What each update of the state leaves in each field. -/

namespace Sys2Proof.Machine

/-! ### begin -/

@[simp] theorem State.begin_seq (s : State) (i : Instr) : (s.begin i).seq = .busy i ⟨0, none⟩ := rfl
@[simp] theorem State.begin_surfW (s : State) (i : Instr) : (s.begin i).surfW = s.surfW := rfl
@[simp] theorem State.begin_surfH (s : State) (i : Instr) : (s.begin i).surfH = s.surfH := rfl
@[simp] theorem State.begin_rotMask (s : State) (i : Instr) : (s.begin i).rotMask = s.rotMask := rfl
@[simp] theorem State.begin_nSamples (s : State) (i : Instr) : (s.begin i).nSamples = s.nSamples := rfl
@[simp] theorem State.begin_calMinX (s : State) (i : Instr) : (s.begin i).calMinX = s.calMinX := rfl
@[simp] theorem State.begin_calMaxX (s : State) (i : Instr) : (s.begin i).calMaxX = s.calMaxX := rfl
@[simp] theorem State.begin_calMinY (s : State) (i : Instr) : (s.begin i).calMinY = s.calMinY := rfl
@[simp] theorem State.begin_calMaxY (s : State) (i : Instr) : (s.begin i).calMaxY = s.calMaxY := rfl
@[simp] theorem State.begin_scaleX (s : State) (i : Instr) : (s.begin i).scaleX = s.scaleX := rfl
@[simp] theorem State.begin_scaleY (s : State) (i : Instr) : (s.begin i).scaleY = s.scaleY := rfl
@[simp] theorem State.begin_calValid (s : State) (i : Instr) : (s.begin i).calValid = s.calValid := rfl
@[simp] theorem State.begin_initDone (s : State) (i : Instr) : (s.begin i).initDone = s.initDone := rfl
@[simp] theorem State.begin_csDisp (s : State) (i : Instr) : (s.begin i).csDisp = s.csDisp := rfl
@[simp] theorem State.begin_csTouch (s : State) (i : Instr) : (s.begin i).csTouch = s.csTouch := rfl
@[simp] theorem State.begin_dc (s : State) (i : Instr) : (s.begin i).dc = s.dc := rfl
@[simp] theorem State.begin_rst (s : State) (i : Instr) : (s.begin i).rst = s.rst := rfl
@[simp] theorem State.begin_sumX (s : State) (i : Instr) : (s.begin i).sumX = s.sumX := rfl
@[simp] theorem State.begin_sumY (s : State) (i : Instr) : (s.begin i).sumY = s.sumY := rfl
@[simp] theorem State.begin_cnt (s : State) (i : Instr) : (s.begin i).cnt = s.cnt := rfl
@[simp] theorem State.begin_status (s : State) (i : Instr) : (s.begin i).status = s.status := rfl
@[simp] theorem State.begin_resX (s : State) (i : Instr) : (s.begin i).resX = s.resX := rfl
@[simp] theorem State.begin_resY (s : State) (i : Instr) : (s.begin i).resY = s.resY := rfl
@[simp] theorem State.begin_trace (s : State) (i : Instr) : (s.begin i).trace = s.trace := rfl
@[simp] theorem State.begin_responses (s : State) (i : Instr) : (s.begin i).responses = s.responses := rfl
@[simp] theorem State.begin_yExact (s : State) (i : Instr) : (s.begin i).yExact = s.yExact := rfl
@[simp] theorem State.begin_cutPrefixes (s : State) (i : Instr) : (s.begin i).cutPrefixes = s.cutPrefixes := rfl
@[simp] theorem State.begin_params (s : State) (i : Instr) : (s.begin i).params = s.params := rfl
@[simp] theorem State.begin_env (s : State) (i : Instr) : (s.begin i).env = s.env := rfl

/-! ### hang -/

@[simp] theorem State.hang_seq (s : State) (c : Call) : (s.hang c).seq = s.seq.wait c := rfl
@[simp] theorem State.hang_surfW (s : State) (c : Call) : (s.hang c).surfW = s.surfW := rfl
@[simp] theorem State.hang_surfH (s : State) (c : Call) : (s.hang c).surfH = s.surfH := rfl
@[simp] theorem State.hang_rotMask (s : State) (c : Call) : (s.hang c).rotMask = s.rotMask := rfl
@[simp] theorem State.hang_nSamples (s : State) (c : Call) : (s.hang c).nSamples = s.nSamples := rfl
@[simp] theorem State.hang_calMinX (s : State) (c : Call) : (s.hang c).calMinX = s.calMinX := rfl
@[simp] theorem State.hang_calMaxX (s : State) (c : Call) : (s.hang c).calMaxX = s.calMaxX := rfl
@[simp] theorem State.hang_calMinY (s : State) (c : Call) : (s.hang c).calMinY = s.calMinY := rfl
@[simp] theorem State.hang_calMaxY (s : State) (c : Call) : (s.hang c).calMaxY = s.calMaxY := rfl
@[simp] theorem State.hang_scaleX (s : State) (c : Call) : (s.hang c).scaleX = s.scaleX := rfl
@[simp] theorem State.hang_scaleY (s : State) (c : Call) : (s.hang c).scaleY = s.scaleY := rfl
@[simp] theorem State.hang_calValid (s : State) (c : Call) : (s.hang c).calValid = s.calValid := rfl
@[simp] theorem State.hang_initDone (s : State) (c : Call) : (s.hang c).initDone = s.initDone := rfl
@[simp] theorem State.hang_csDisp (s : State) (c : Call) : (s.hang c).csDisp = s.csDisp := rfl
@[simp] theorem State.hang_csTouch (s : State) (c : Call) : (s.hang c).csTouch = s.csTouch := rfl
@[simp] theorem State.hang_dc (s : State) (c : Call) : (s.hang c).dc = s.dc := rfl
@[simp] theorem State.hang_rst (s : State) (c : Call) : (s.hang c).rst = s.rst := rfl
@[simp] theorem State.hang_sumX (s : State) (c : Call) : (s.hang c).sumX = s.sumX := rfl
@[simp] theorem State.hang_sumY (s : State) (c : Call) : (s.hang c).sumY = s.sumY := rfl
@[simp] theorem State.hang_cnt (s : State) (c : Call) : (s.hang c).cnt = s.cnt := rfl
@[simp] theorem State.hang_status (s : State) (c : Call) : (s.hang c).status = s.status := rfl
@[simp] theorem State.hang_resX (s : State) (c : Call) : (s.hang c).resX = s.resX := rfl
@[simp] theorem State.hang_resY (s : State) (c : Call) : (s.hang c).resY = s.resY := rfl
@[simp] theorem State.hang_trace (s : State) (c : Call) : (s.hang c).trace = s.trace := rfl
@[simp] theorem State.hang_responses (s : State) (c : Call) : (s.hang c).responses = s.responses := rfl
@[simp] theorem State.hang_yExact (s : State) (c : Call) : (s.hang c).yExact = s.yExact := rfl
@[simp] theorem State.hang_cutPrefixes (s : State) (c : Call) : (s.hang c).cutPrefixes = s.cutPrefixes := rfl
@[simp] theorem State.hang_params (s : State) (c : Call) : (s.hang c).params = s.params := rfl
@[simp] theorem State.hang_env (s : State) (c : Call) : (s.hang c).env = s.env := rfl

/-! ### respond -/

@[simp] theorem State.respond_seq (s : State) (k : Kind) (x y : U16) (e : Option Int) : (s.respond k x y e).seq = .idle := rfl
@[simp] theorem State.respond_surfW (s : State) (k : Kind) (x y : U16) (e : Option Int) : (s.respond k x y e).surfW = s.surfW := rfl
@[simp] theorem State.respond_surfH (s : State) (k : Kind) (x y : U16) (e : Option Int) : (s.respond k x y e).surfH = s.surfH := rfl
@[simp] theorem State.respond_rotMask (s : State) (k : Kind) (x y : U16) (e : Option Int) : (s.respond k x y e).rotMask = s.rotMask := rfl
@[simp] theorem State.respond_nSamples (s : State) (k : Kind) (x y : U16) (e : Option Int) : (s.respond k x y e).nSamples = s.nSamples := rfl
@[simp] theorem State.respond_calMinX (s : State) (k : Kind) (x y : U16) (e : Option Int) : (s.respond k x y e).calMinX = s.calMinX := rfl
@[simp] theorem State.respond_calMaxX (s : State) (k : Kind) (x y : U16) (e : Option Int) : (s.respond k x y e).calMaxX = s.calMaxX := rfl
@[simp] theorem State.respond_calMinY (s : State) (k : Kind) (x y : U16) (e : Option Int) : (s.respond k x y e).calMinY = s.calMinY := rfl
@[simp] theorem State.respond_calMaxY (s : State) (k : Kind) (x y : U16) (e : Option Int) : (s.respond k x y e).calMaxY = s.calMaxY := rfl
@[simp] theorem State.respond_scaleX (s : State) (k : Kind) (x y : U16) (e : Option Int) : (s.respond k x y e).scaleX = s.scaleX := rfl
@[simp] theorem State.respond_scaleY (s : State) (k : Kind) (x y : U16) (e : Option Int) : (s.respond k x y e).scaleY = s.scaleY := rfl
@[simp] theorem State.respond_calValid (s : State) (k : Kind) (x y : U16) (e : Option Int) : (s.respond k x y e).calValid = s.calValid := rfl
@[simp] theorem State.respond_initDone (s : State) (k : Kind) (x y : U16) (e : Option Int) : (s.respond k x y e).initDone = s.initDone := rfl
@[simp] theorem State.respond_csDisp (s : State) (k : Kind) (x y : U16) (e : Option Int) : (s.respond k x y e).csDisp = s.csDisp := rfl
@[simp] theorem State.respond_csTouch (s : State) (k : Kind) (x y : U16) (e : Option Int) : (s.respond k x y e).csTouch = s.csTouch := rfl
@[simp] theorem State.respond_dc (s : State) (k : Kind) (x y : U16) (e : Option Int) : (s.respond k x y e).dc = s.dc := rfl
@[simp] theorem State.respond_rst (s : State) (k : Kind) (x y : U16) (e : Option Int) : (s.respond k x y e).rst = s.rst := rfl
@[simp] theorem State.respond_sumX (s : State) (k : Kind) (x y : U16) (e : Option Int) : (s.respond k x y e).sumX = s.sumX := rfl
@[simp] theorem State.respond_sumY (s : State) (k : Kind) (x y : U16) (e : Option Int) : (s.respond k x y e).sumY = s.sumY := rfl
@[simp] theorem State.respond_cnt (s : State) (k : Kind) (x y : U16) (e : Option Int) : (s.respond k x y e).cnt = s.cnt := rfl
@[simp] theorem State.respond_status (s : State) (k : Kind) (x y : U16) (e : Option Int) : (s.respond k x y e).status = k.code := rfl
@[simp] theorem State.respond_resX (s : State) (k : Kind) (x y : U16) (e : Option Int) : (s.respond k x y e).resX = x := rfl
@[simp] theorem State.respond_resY (s : State) (k : Kind) (x y : U16) (e : Option Int) : (s.respond k x y e).resY = y := rfl
@[simp] theorem State.respond_trace (s : State) (k : Kind) (x y : U16) (e : Option Int) : (s.respond k x y e).trace = s.trace := rfl
@[simp] theorem State.respond_responses (s : State) (k : Kind) (x y : U16) (e : Option Int) : (s.respond k x y e).responses = s.responses ++ [⟨k.code, x, y⟩] := rfl
@[simp] theorem State.respond_yExact (s : State) (k : Kind) (x y : U16) (e : Option Int) : (s.respond k x y e).yExact = e := rfl
@[simp] theorem State.respond_cutPrefixes (s : State) (k : Kind) (x y : U16) (e : Option Int) : (s.respond k x y e).cutPrefixes = s.cutPrefixes := rfl
@[simp] theorem State.respond_params (s : State) (k : Kind) (x y : U16) (e : Option Int) : (s.respond k x y e).params = s.params := rfl
@[simp] theorem State.respond_env (s : State) (k : Kind) (x y : U16) (e : Option Int) : (s.respond k x y e).env = s.env := rfl

/-! ### answer -/

@[simp] theorem State.answer_seq (s : State) (k : Kind) : (s.answer k).seq = .idle := rfl
@[simp] theorem State.answer_surfW (s : State) (k : Kind) : (s.answer k).surfW = s.surfW := rfl
@[simp] theorem State.answer_surfH (s : State) (k : Kind) : (s.answer k).surfH = s.surfH := rfl
@[simp] theorem State.answer_rotMask (s : State) (k : Kind) : (s.answer k).rotMask = s.rotMask := rfl
@[simp] theorem State.answer_nSamples (s : State) (k : Kind) : (s.answer k).nSamples = s.nSamples := rfl
@[simp] theorem State.answer_calMinX (s : State) (k : Kind) : (s.answer k).calMinX = s.calMinX := rfl
@[simp] theorem State.answer_calMaxX (s : State) (k : Kind) : (s.answer k).calMaxX = s.calMaxX := rfl
@[simp] theorem State.answer_calMinY (s : State) (k : Kind) : (s.answer k).calMinY = s.calMinY := rfl
@[simp] theorem State.answer_calMaxY (s : State) (k : Kind) : (s.answer k).calMaxY = s.calMaxY := rfl
@[simp] theorem State.answer_scaleX (s : State) (k : Kind) : (s.answer k).scaleX = s.scaleX := rfl
@[simp] theorem State.answer_scaleY (s : State) (k : Kind) : (s.answer k).scaleY = s.scaleY := rfl
@[simp] theorem State.answer_calValid (s : State) (k : Kind) : (s.answer k).calValid = s.calValid := rfl
@[simp] theorem State.answer_initDone (s : State) (k : Kind) : (s.answer k).initDone = s.initDone := rfl
@[simp] theorem State.answer_csDisp (s : State) (k : Kind) : (s.answer k).csDisp = s.csDisp := rfl
@[simp] theorem State.answer_csTouch (s : State) (k : Kind) : (s.answer k).csTouch = s.csTouch := rfl
@[simp] theorem State.answer_dc (s : State) (k : Kind) : (s.answer k).dc = s.dc := rfl
@[simp] theorem State.answer_rst (s : State) (k : Kind) : (s.answer k).rst = s.rst := rfl
@[simp] theorem State.answer_sumX (s : State) (k : Kind) : (s.answer k).sumX = s.sumX := rfl
@[simp] theorem State.answer_sumY (s : State) (k : Kind) : (s.answer k).sumY = s.sumY := rfl
@[simp] theorem State.answer_cnt (s : State) (k : Kind) : (s.answer k).cnt = s.cnt := rfl
@[simp] theorem State.answer_status (s : State) (k : Kind) : (s.answer k).status = k.code := rfl
@[simp] theorem State.answer_resX (s : State) (k : Kind) : (s.answer k).resX = 0 := rfl
@[simp] theorem State.answer_resY (s : State) (k : Kind) : (s.answer k).resY = 0 := rfl
@[simp] theorem State.answer_trace (s : State) (k : Kind) : (s.answer k).trace = s.trace := rfl
@[simp] theorem State.answer_responses (s : State) (k : Kind) : (s.answer k).responses = s.responses ++ [⟨k.code, 0, 0⟩] := rfl
@[simp] theorem State.answer_yExact (s : State) (k : Kind) : (s.answer k).yExact = none := rfl
@[simp] theorem State.answer_cutPrefixes (s : State) (k : Kind) : (s.answer k).cutPrefixes = s.cutPrefixes := rfl
@[simp] theorem State.answer_params (s : State) (k : Kind) : (s.answer k).params = s.params := rfl
@[simp] theorem State.answer_env (s : State) (k : Kind) : (s.answer k).env = s.env := rfl

/-! ### answerTouch -/

@[simp] theorem State.answerTouch_seq (s : State) (x : Nat) (y : Int) : (s.answerTouch x y).seq = .idle := rfl
@[simp] theorem State.answerTouch_surfW (s : State) (x : Nat) (y : Int) : (s.answerTouch x y).surfW = s.surfW := rfl
@[simp] theorem State.answerTouch_surfH (s : State) (x : Nat) (y : Int) : (s.answerTouch x y).surfH = s.surfH := rfl
@[simp] theorem State.answerTouch_rotMask (s : State) (x : Nat) (y : Int) : (s.answerTouch x y).rotMask = s.rotMask := rfl
@[simp] theorem State.answerTouch_nSamples (s : State) (x : Nat) (y : Int) : (s.answerTouch x y).nSamples = s.nSamples := rfl
@[simp] theorem State.answerTouch_calMinX (s : State) (x : Nat) (y : Int) : (s.answerTouch x y).calMinX = s.calMinX := rfl
@[simp] theorem State.answerTouch_calMaxX (s : State) (x : Nat) (y : Int) : (s.answerTouch x y).calMaxX = s.calMaxX := rfl
@[simp] theorem State.answerTouch_calMinY (s : State) (x : Nat) (y : Int) : (s.answerTouch x y).calMinY = s.calMinY := rfl
@[simp] theorem State.answerTouch_calMaxY (s : State) (x : Nat) (y : Int) : (s.answerTouch x y).calMaxY = s.calMaxY := rfl
@[simp] theorem State.answerTouch_scaleX (s : State) (x : Nat) (y : Int) : (s.answerTouch x y).scaleX = s.scaleX := rfl
@[simp] theorem State.answerTouch_scaleY (s : State) (x : Nat) (y : Int) : (s.answerTouch x y).scaleY = s.scaleY := rfl
@[simp] theorem State.answerTouch_calValid (s : State) (x : Nat) (y : Int) : (s.answerTouch x y).calValid = s.calValid := rfl
@[simp] theorem State.answerTouch_initDone (s : State) (x : Nat) (y : Int) : (s.answerTouch x y).initDone = s.initDone := rfl
@[simp] theorem State.answerTouch_csDisp (s : State) (x : Nat) (y : Int) : (s.answerTouch x y).csDisp = s.csDisp := rfl
@[simp] theorem State.answerTouch_csTouch (s : State) (x : Nat) (y : Int) : (s.answerTouch x y).csTouch = s.csTouch := rfl
@[simp] theorem State.answerTouch_dc (s : State) (x : Nat) (y : Int) : (s.answerTouch x y).dc = s.dc := rfl
@[simp] theorem State.answerTouch_rst (s : State) (x : Nat) (y : Int) : (s.answerTouch x y).rst = s.rst := rfl
@[simp] theorem State.answerTouch_sumX (s : State) (x : Nat) (y : Int) : (s.answerTouch x y).sumX = s.sumX := rfl
@[simp] theorem State.answerTouch_sumY (s : State) (x : Nat) (y : Int) : (s.answerTouch x y).sumY = s.sumY := rfl
@[simp] theorem State.answerTouch_cnt (s : State) (x : Nat) (y : Int) : (s.answerTouch x y).cnt = s.cnt := rfl
@[simp] theorem State.answerTouch_status (s : State) (x : Nat) (y : Int) : (s.answerTouch x y).status = Kind.touch.code := rfl
@[simp] theorem State.answerTouch_resX (s : State) (x : Nat) (y : Int) : (s.answerTouch x y).resX = BitVec.ofNat 16 x := rfl
@[simp] theorem State.answerTouch_resY (s : State) (x : Nat) (y : Int) : (s.answerTouch x y).resY = BitVec.ofInt 16 y := rfl
@[simp] theorem State.answerTouch_trace (s : State) (x : Nat) (y : Int) : (s.answerTouch x y).trace = s.trace := rfl
@[simp] theorem State.answerTouch_responses (s : State) (x : Nat) (y : Int) : (s.answerTouch x y).responses = s.responses ++ [⟨Kind.touch.code, BitVec.ofNat 16 x, BitVec.ofInt 16 y⟩] := rfl
@[simp] theorem State.answerTouch_yExact (s : State) (x : Nat) (y : Int) : (s.answerTouch x y).yExact = some y := rfl
@[simp] theorem State.answerTouch_cutPrefixes (s : State) (x : Nat) (y : Int) : (s.answerTouch x y).cutPrefixes = s.cutPrefixes := rfl
@[simp] theorem State.answerTouch_params (s : State) (x : Nat) (y : Int) : (s.answerTouch x y).params = s.params := rfl
@[simp] theorem State.answerTouch_env (s : State) (x : Nat) (y : Int) : (s.answerTouch x y).env = s.env := rfl

/-! ### setCalibration -/

@[simp] theorem State.setCalibration_seq (s : State) (a b c d e f : U16) : (s.setCalibration a b c d e f).seq = s.seq := rfl
@[simp] theorem State.setCalibration_surfW (s : State) (a b c d e f : U16) : (s.setCalibration a b c d e f).surfW = s.surfW := rfl
@[simp] theorem State.setCalibration_surfH (s : State) (a b c d e f : U16) : (s.setCalibration a b c d e f).surfH = s.surfH := rfl
@[simp] theorem State.setCalibration_rotMask (s : State) (a b c d e f : U16) : (s.setCalibration a b c d e f).rotMask = s.rotMask := rfl
@[simp] theorem State.setCalibration_nSamples (s : State) (a b c d e f : U16) : (s.setCalibration a b c d e f).nSamples = s.nSamples := rfl
@[simp] theorem State.setCalibration_calMinX (s : State) (a b c d e f : U16) : (s.setCalibration a b c d e f).calMinX = a := rfl
@[simp] theorem State.setCalibration_calMaxX (s : State) (a b c d e f : U16) : (s.setCalibration a b c d e f).calMaxX = b := rfl
@[simp] theorem State.setCalibration_calMinY (s : State) (a b c d e f : U16) : (s.setCalibration a b c d e f).calMinY = c := rfl
@[simp] theorem State.setCalibration_calMaxY (s : State) (a b c d e f : U16) : (s.setCalibration a b c d e f).calMaxY = d := rfl
@[simp] theorem State.setCalibration_scaleX (s : State) (a b c d e f : U16) : (s.setCalibration a b c d e f).scaleX = e := rfl
@[simp] theorem State.setCalibration_scaleY (s : State) (a b c d e f : U16) : (s.setCalibration a b c d e f).scaleY = f := rfl
@[simp] theorem State.setCalibration_calValid (s : State) (a b c d e f : U16) : (s.setCalibration a b c d e f).calValid = true := rfl
@[simp] theorem State.setCalibration_initDone (s : State) (a b c d e f : U16) : (s.setCalibration a b c d e f).initDone = s.initDone := rfl
@[simp] theorem State.setCalibration_csDisp (s : State) (a b c d e f : U16) : (s.setCalibration a b c d e f).csDisp = s.csDisp := rfl
@[simp] theorem State.setCalibration_csTouch (s : State) (a b c d e f : U16) : (s.setCalibration a b c d e f).csTouch = s.csTouch := rfl
@[simp] theorem State.setCalibration_dc (s : State) (a b c d e f : U16) : (s.setCalibration a b c d e f).dc = s.dc := rfl
@[simp] theorem State.setCalibration_rst (s : State) (a b c d e f : U16) : (s.setCalibration a b c d e f).rst = s.rst := rfl
@[simp] theorem State.setCalibration_sumX (s : State) (a b c d e f : U16) : (s.setCalibration a b c d e f).sumX = s.sumX := rfl
@[simp] theorem State.setCalibration_sumY (s : State) (a b c d e f : U16) : (s.setCalibration a b c d e f).sumY = s.sumY := rfl
@[simp] theorem State.setCalibration_cnt (s : State) (a b c d e f : U16) : (s.setCalibration a b c d e f).cnt = s.cnt := rfl
@[simp] theorem State.setCalibration_status (s : State) (a b c d e f : U16) : (s.setCalibration a b c d e f).status = s.status := rfl
@[simp] theorem State.setCalibration_resX (s : State) (a b c d e f : U16) : (s.setCalibration a b c d e f).resX = s.resX := rfl
@[simp] theorem State.setCalibration_resY (s : State) (a b c d e f : U16) : (s.setCalibration a b c d e f).resY = s.resY := rfl
@[simp] theorem State.setCalibration_trace (s : State) (a b c d e f : U16) : (s.setCalibration a b c d e f).trace = s.trace := rfl
@[simp] theorem State.setCalibration_responses (s : State) (a b c d e f : U16) : (s.setCalibration a b c d e f).responses = s.responses := rfl
@[simp] theorem State.setCalibration_yExact (s : State) (a b c d e f : U16) : (s.setCalibration a b c d e f).yExact = s.yExact := rfl
@[simp] theorem State.setCalibration_cutPrefixes (s : State) (a b c d e f : U16) : (s.setCalibration a b c d e f).cutPrefixes = s.cutPrefixes := rfl
@[simp] theorem State.setCalibration_params (s : State) (a b c d e f : U16) : (s.setCalibration a b c d e f).params = s.params := rfl
@[simp] theorem State.setCalibration_env (s : State) (a b c d e f : U16) : (s.setCalibration a b c d e f).env = s.env := rfl

/-! ### setInitDone -/

@[simp] theorem State.setInitDone_seq (s : State) : (s.setInitDone).seq = s.seq := rfl
@[simp] theorem State.setInitDone_surfW (s : State) : (s.setInitDone).surfW = s.surfW := rfl
@[simp] theorem State.setInitDone_surfH (s : State) : (s.setInitDone).surfH = s.surfH := rfl
@[simp] theorem State.setInitDone_rotMask (s : State) : (s.setInitDone).rotMask = s.rotMask := rfl
@[simp] theorem State.setInitDone_nSamples (s : State) : (s.setInitDone).nSamples = s.nSamples := rfl
@[simp] theorem State.setInitDone_calMinX (s : State) : (s.setInitDone).calMinX = s.calMinX := rfl
@[simp] theorem State.setInitDone_calMaxX (s : State) : (s.setInitDone).calMaxX = s.calMaxX := rfl
@[simp] theorem State.setInitDone_calMinY (s : State) : (s.setInitDone).calMinY = s.calMinY := rfl
@[simp] theorem State.setInitDone_calMaxY (s : State) : (s.setInitDone).calMaxY = s.calMaxY := rfl
@[simp] theorem State.setInitDone_scaleX (s : State) : (s.setInitDone).scaleX = s.scaleX := rfl
@[simp] theorem State.setInitDone_scaleY (s : State) : (s.setInitDone).scaleY = s.scaleY := rfl
@[simp] theorem State.setInitDone_calValid (s : State) : (s.setInitDone).calValid = s.calValid := rfl
@[simp] theorem State.setInitDone_initDone (s : State) : (s.setInitDone).initDone = true := rfl
@[simp] theorem State.setInitDone_csDisp (s : State) : (s.setInitDone).csDisp = s.csDisp := rfl
@[simp] theorem State.setInitDone_csTouch (s : State) : (s.setInitDone).csTouch = s.csTouch := rfl
@[simp] theorem State.setInitDone_dc (s : State) : (s.setInitDone).dc = s.dc := rfl
@[simp] theorem State.setInitDone_rst (s : State) : (s.setInitDone).rst = s.rst := rfl
@[simp] theorem State.setInitDone_sumX (s : State) : (s.setInitDone).sumX = s.sumX := rfl
@[simp] theorem State.setInitDone_sumY (s : State) : (s.setInitDone).sumY = s.sumY := rfl
@[simp] theorem State.setInitDone_cnt (s : State) : (s.setInitDone).cnt = s.cnt := rfl
@[simp] theorem State.setInitDone_status (s : State) : (s.setInitDone).status = s.status := rfl
@[simp] theorem State.setInitDone_resX (s : State) : (s.setInitDone).resX = s.resX := rfl
@[simp] theorem State.setInitDone_resY (s : State) : (s.setInitDone).resY = s.resY := rfl
@[simp] theorem State.setInitDone_trace (s : State) : (s.setInitDone).trace = s.trace := rfl
@[simp] theorem State.setInitDone_responses (s : State) : (s.setInitDone).responses = s.responses := rfl
@[simp] theorem State.setInitDone_yExact (s : State) : (s.setInitDone).yExact = s.yExact := rfl
@[simp] theorem State.setInitDone_cutPrefixes (s : State) : (s.setInitDone).cutPrefixes = s.cutPrefixes := rfl
@[simp] theorem State.setInitDone_params (s : State) : (s.setInitDone).params = s.params := rfl
@[simp] theorem State.setInitDone_env (s : State) : (s.setInitDone).env = s.env := rfl

/-! ### clearSums -/

@[simp] theorem State.clearSums_seq (s : State) : (s.clearSums).seq = s.seq := rfl
@[simp] theorem State.clearSums_surfW (s : State) : (s.clearSums).surfW = s.surfW := rfl
@[simp] theorem State.clearSums_surfH (s : State) : (s.clearSums).surfH = s.surfH := rfl
@[simp] theorem State.clearSums_rotMask (s : State) : (s.clearSums).rotMask = s.rotMask := rfl
@[simp] theorem State.clearSums_nSamples (s : State) : (s.clearSums).nSamples = s.nSamples := rfl
@[simp] theorem State.clearSums_calMinX (s : State) : (s.clearSums).calMinX = s.calMinX := rfl
@[simp] theorem State.clearSums_calMaxX (s : State) : (s.clearSums).calMaxX = s.calMaxX := rfl
@[simp] theorem State.clearSums_calMinY (s : State) : (s.clearSums).calMinY = s.calMinY := rfl
@[simp] theorem State.clearSums_calMaxY (s : State) : (s.clearSums).calMaxY = s.calMaxY := rfl
@[simp] theorem State.clearSums_scaleX (s : State) : (s.clearSums).scaleX = s.scaleX := rfl
@[simp] theorem State.clearSums_scaleY (s : State) : (s.clearSums).scaleY = s.scaleY := rfl
@[simp] theorem State.clearSums_calValid (s : State) : (s.clearSums).calValid = s.calValid := rfl
@[simp] theorem State.clearSums_initDone (s : State) : (s.clearSums).initDone = s.initDone := rfl
@[simp] theorem State.clearSums_csDisp (s : State) : (s.clearSums).csDisp = s.csDisp := rfl
@[simp] theorem State.clearSums_csTouch (s : State) : (s.clearSums).csTouch = s.csTouch := rfl
@[simp] theorem State.clearSums_dc (s : State) : (s.clearSums).dc = s.dc := rfl
@[simp] theorem State.clearSums_rst (s : State) : (s.clearSums).rst = s.rst := rfl
@[simp] theorem State.clearSums_sumX (s : State) : (s.clearSums).sumX = 0 := rfl
@[simp] theorem State.clearSums_sumY (s : State) : (s.clearSums).sumY = 0 := rfl
@[simp] theorem State.clearSums_cnt (s : State) : (s.clearSums).cnt = 0 := rfl
@[simp] theorem State.clearSums_status (s : State) : (s.clearSums).status = s.status := rfl
@[simp] theorem State.clearSums_resX (s : State) : (s.clearSums).resX = s.resX := rfl
@[simp] theorem State.clearSums_resY (s : State) : (s.clearSums).resY = s.resY := rfl
@[simp] theorem State.clearSums_trace (s : State) : (s.clearSums).trace = s.trace := rfl
@[simp] theorem State.clearSums_responses (s : State) : (s.clearSums).responses = s.responses := rfl
@[simp] theorem State.clearSums_yExact (s : State) : (s.clearSums).yExact = s.yExact := rfl
@[simp] theorem State.clearSums_cutPrefixes (s : State) : (s.clearSums).cutPrefixes = s.cutPrefixes := rfl
@[simp] theorem State.clearSums_params (s : State) : (s.clearSums).params = s.params := rfl
@[simp] theorem State.clearSums_env (s : State) : (s.clearSums).env = s.env := rfl

/-! ### accumulate -/

@[simp] theorem State.accumulate_seq (s : State) (rx ry : U16) : (s.accumulate rx ry).seq = s.seq := rfl
@[simp] theorem State.accumulate_surfW (s : State) (rx ry : U16) : (s.accumulate rx ry).surfW = s.surfW := rfl
@[simp] theorem State.accumulate_surfH (s : State) (rx ry : U16) : (s.accumulate rx ry).surfH = s.surfH := rfl
@[simp] theorem State.accumulate_rotMask (s : State) (rx ry : U16) : (s.accumulate rx ry).rotMask = s.rotMask := rfl
@[simp] theorem State.accumulate_nSamples (s : State) (rx ry : U16) : (s.accumulate rx ry).nSamples = s.nSamples := rfl
@[simp] theorem State.accumulate_calMinX (s : State) (rx ry : U16) : (s.accumulate rx ry).calMinX = s.calMinX := rfl
@[simp] theorem State.accumulate_calMaxX (s : State) (rx ry : U16) : (s.accumulate rx ry).calMaxX = s.calMaxX := rfl
@[simp] theorem State.accumulate_calMinY (s : State) (rx ry : U16) : (s.accumulate rx ry).calMinY = s.calMinY := rfl
@[simp] theorem State.accumulate_calMaxY (s : State) (rx ry : U16) : (s.accumulate rx ry).calMaxY = s.calMaxY := rfl
@[simp] theorem State.accumulate_scaleX (s : State) (rx ry : U16) : (s.accumulate rx ry).scaleX = s.scaleX := rfl
@[simp] theorem State.accumulate_scaleY (s : State) (rx ry : U16) : (s.accumulate rx ry).scaleY = s.scaleY := rfl
@[simp] theorem State.accumulate_calValid (s : State) (rx ry : U16) : (s.accumulate rx ry).calValid = s.calValid := rfl
@[simp] theorem State.accumulate_initDone (s : State) (rx ry : U16) : (s.accumulate rx ry).initDone = s.initDone := rfl
@[simp] theorem State.accumulate_csDisp (s : State) (rx ry : U16) : (s.accumulate rx ry).csDisp = s.csDisp := rfl
@[simp] theorem State.accumulate_csTouch (s : State) (rx ry : U16) : (s.accumulate rx ry).csTouch = s.csTouch := rfl
@[simp] theorem State.accumulate_dc (s : State) (rx ry : U16) : (s.accumulate rx ry).dc = s.dc := rfl
@[simp] theorem State.accumulate_rst (s : State) (rx ry : U16) : (s.accumulate rx ry).rst = s.rst := rfl
@[simp] theorem State.accumulate_sumX (s : State) (rx ry : U16) : (s.accumulate rx ry).sumX = s.sumX + rx.setWidth 32 := rfl
@[simp] theorem State.accumulate_sumY (s : State) (rx ry : U16) : (s.accumulate rx ry).sumY = s.sumY + ry.setWidth 32 := rfl
@[simp] theorem State.accumulate_cnt (s : State) (rx ry : U16) : (s.accumulate rx ry).cnt = s.cnt + 1 := rfl
@[simp] theorem State.accumulate_status (s : State) (rx ry : U16) : (s.accumulate rx ry).status = s.status := rfl
@[simp] theorem State.accumulate_resX (s : State) (rx ry : U16) : (s.accumulate rx ry).resX = s.resX := rfl
@[simp] theorem State.accumulate_resY (s : State) (rx ry : U16) : (s.accumulate rx ry).resY = s.resY := rfl
@[simp] theorem State.accumulate_trace (s : State) (rx ry : U16) : (s.accumulate rx ry).trace = s.trace := rfl
@[simp] theorem State.accumulate_responses (s : State) (rx ry : U16) : (s.accumulate rx ry).responses = s.responses := rfl
@[simp] theorem State.accumulate_yExact (s : State) (rx ry : U16) : (s.accumulate rx ry).yExact = s.yExact := rfl
@[simp] theorem State.accumulate_cutPrefixes (s : State) (rx ry : U16) : (s.accumulate rx ry).cutPrefixes = s.cutPrefixes := rfl
@[simp] theorem State.accumulate_params (s : State) (rx ry : U16) : (s.accumulate rx ry).params = s.params := rfl
@[simp] theorem State.accumulate_env (s : State) (rx ry : U16) : (s.accumulate rx ry).env = s.env := rfl

/-! ### emit: the fields no transport call writes -/

@[simp] theorem State.emit_surfW (s : State) (e : Event) : (s.emit e).surfW = s.surfW := by
  rcases e with (_ | _) | (_ | _) | _ | _ | _ | _ | _ | _ | _ | _ <;> rfl
@[simp] theorem State.emit_surfH (s : State) (e : Event) : (s.emit e).surfH = s.surfH := by
  rcases e with (_ | _) | (_ | _) | _ | _ | _ | _ | _ | _ | _ | _ <;> rfl
@[simp] theorem State.emit_rotMask (s : State) (e : Event) : (s.emit e).rotMask = s.rotMask := by
  rcases e with (_ | _) | (_ | _) | _ | _ | _ | _ | _ | _ | _ | _ <;> rfl
@[simp] theorem State.emit_nSamples (s : State) (e : Event) : (s.emit e).nSamples = s.nSamples := by
  rcases e with (_ | _) | (_ | _) | _ | _ | _ | _ | _ | _ | _ | _ <;> rfl
@[simp] theorem State.emit_calMinX (s : State) (e : Event) : (s.emit e).calMinX = s.calMinX := by
  rcases e with (_ | _) | (_ | _) | _ | _ | _ | _ | _ | _ | _ | _ <;> rfl
@[simp] theorem State.emit_calMaxX (s : State) (e : Event) : (s.emit e).calMaxX = s.calMaxX := by
  rcases e with (_ | _) | (_ | _) | _ | _ | _ | _ | _ | _ | _ | _ <;> rfl
@[simp] theorem State.emit_calMinY (s : State) (e : Event) : (s.emit e).calMinY = s.calMinY := by
  rcases e with (_ | _) | (_ | _) | _ | _ | _ | _ | _ | _ | _ | _ <;> rfl
@[simp] theorem State.emit_calMaxY (s : State) (e : Event) : (s.emit e).calMaxY = s.calMaxY := by
  rcases e with (_ | _) | (_ | _) | _ | _ | _ | _ | _ | _ | _ | _ <;> rfl
@[simp] theorem State.emit_scaleX (s : State) (e : Event) : (s.emit e).scaleX = s.scaleX := by
  rcases e with (_ | _) | (_ | _) | _ | _ | _ | _ | _ | _ | _ | _ <;> rfl
@[simp] theorem State.emit_scaleY (s : State) (e : Event) : (s.emit e).scaleY = s.scaleY := by
  rcases e with (_ | _) | (_ | _) | _ | _ | _ | _ | _ | _ | _ | _ <;> rfl
@[simp] theorem State.emit_calValid (s : State) (e : Event) : (s.emit e).calValid = s.calValid := by
  rcases e with (_ | _) | (_ | _) | _ | _ | _ | _ | _ | _ | _ | _ <;> rfl
@[simp] theorem State.emit_initDone (s : State) (e : Event) : (s.emit e).initDone = s.initDone := by
  rcases e with (_ | _) | (_ | _) | _ | _ | _ | _ | _ | _ | _ | _ <;> rfl
@[simp] theorem State.emit_sumX (s : State) (e : Event) : (s.emit e).sumX = s.sumX := by
  rcases e with (_ | _) | (_ | _) | _ | _ | _ | _ | _ | _ | _ | _ <;> rfl
@[simp] theorem State.emit_sumY (s : State) (e : Event) : (s.emit e).sumY = s.sumY := by
  rcases e with (_ | _) | (_ | _) | _ | _ | _ | _ | _ | _ | _ | _ <;> rfl
@[simp] theorem State.emit_cnt (s : State) (e : Event) : (s.emit e).cnt = s.cnt := by
  rcases e with (_ | _) | (_ | _) | _ | _ | _ | _ | _ | _ | _ | _ <;> rfl
@[simp] theorem State.emit_status (s : State) (e : Event) : (s.emit e).status = s.status := by
  rcases e with (_ | _) | (_ | _) | _ | _ | _ | _ | _ | _ | _ | _ <;> rfl
@[simp] theorem State.emit_resX (s : State) (e : Event) : (s.emit e).resX = s.resX := by
  rcases e with (_ | _) | (_ | _) | _ | _ | _ | _ | _ | _ | _ | _ <;> rfl
@[simp] theorem State.emit_resY (s : State) (e : Event) : (s.emit e).resY = s.resY := by
  rcases e with (_ | _) | (_ | _) | _ | _ | _ | _ | _ | _ | _ | _ <;> rfl
@[simp] theorem State.emit_responses (s : State) (e : Event) : (s.emit e).responses = s.responses := by
  rcases e with (_ | _) | (_ | _) | _ | _ | _ | _ | _ | _ | _ | _ <;> rfl
@[simp] theorem State.emit_yExact (s : State) (e : Event) : (s.emit e).yExact = s.yExact := by
  rcases e with (_ | _) | (_ | _) | _ | _ | _ | _ | _ | _ | _ | _ <;> rfl
@[simp] theorem State.emit_params (s : State) (e : Event) : (s.emit e).params = s.params := by
  rcases e with (_ | _) | (_ | _) | _ | _ | _ | _ | _ | _ | _ | _ <;> rfl
@[simp] theorem State.emit_trace (s : State) (e : Event) : (s.emit e).trace = s.trace ++ [e] := by
  rcases e with (_ | _) | (_ | _) | _ | _ | _ | _ | _ | _ | _ | _ <;> rfl
@[simp] theorem State.emit_seq (s : State) (e : Event) : (s.emit e).seq = s.seq.advance := by
  rcases e with (_ | _) | (_ | _) | _ | _ | _ | _ | _ | _ | _ | _ <;> rfl
@[simp] theorem State.emit_calls (s : State) (e : Event) : (s.emit e).env.calls = s.env.calls + 1 := by
  rcases e with (_ | _) | (_ | _) | _ | _ | _ | _ | _ | _ | _ | _ <;> rfl
@[simp] theorem State.emit_requests (s : State) (e : Event) : (s.emit e).env.requests = s.env.requests := by
  rcases e with (_ | _) | (_ | _) | _ | _ | _ | _ | _ | _ | _ | _ <;> rfl
@[simp] theorem State.emit_neverReturns (s : State) (e : Event) : (s.emit e).env.neverReturns = s.env.neverReturns := by
  rcases e with (_ | _) | (_ | _) | _ | _ | _ | _ | _ | _ | _ | _ <;> rfl

end Sys2Proof.Machine
end

