-- ==== Sys2Proof/Laws/Plan.lean ====
section
/-! SUPPORT. Display-side procedures as plans: each runs a list of planned events, one call each, and ends by playing
them all, by a failed transmit, or at a call that never returns. -/

namespace Sys2Proof.Machine

/-! ### Draws -/

@[simp] theorem Draws.skip_zero {α : Type} (d : Draws α) : d.skip 0 = d := rfl

@[simp] theorem Draws.skip_skip {α : Type} (d : Draws α) (m n : Nat) : (d.skip m).skip n = d.skip (m + n) := by
  simp [Draws.skip, List.drop_drop, Nat.add_assoc]

@[simp] theorem Draws.peek_skip {α : Type} (free : Nat → α) (d : Draws α) (n k : Nat) :
    (d.skip n).peek free k = d.peek free (n + k) := by
  simp [Draws.skip, Draws.peek, List.getElem?_drop, Nat.add_assoc]

/-! ### Playing events -/

/-- The state after the calls of these events have returned. -/
def State.play (s : State) (l : List Event) : State := l.foldl State.emit s

@[simp] theorem State.play_nil (s : State) : s.play [] = s := rfl

@[simp] theorem State.play_cons (s : State) (e : Event) (l : List Event) :
    s.play (e :: l) = (s.emit e).play l := rfl

theorem State.play_append (s : State) (a b : List Event) : s.play (a ++ b) = (s.play a).play b := by
  simp [State.play]

/-- A field no transport call writes is unchanged by playing events. -/
theorem State.play_keeps {β : Type} (f : State → β) (h : ∀ s e, f (State.emit s e) = f s) :
    ∀ (l : List Event) (s : State), f (s.play l) = f s
  | [], _ => rfl
  | e :: l, s => (State.play_keeps f h l (s.emit e)).trans (h s e)

@[simp] theorem State.play_trace (l : List Event) : ∀ s : State, (s.play l).trace = s.trace ++ l := by
  induction l with
  | nil => simp
  | cons e l ih => intro s; simp [ih]

@[simp] theorem State.play_calls (l : List Event) : ∀ s : State, (s.play l).env.calls = s.env.calls + l.length := by
  induction l with
  | nil => simp
  | cons e l ih => intro s; simp [ih]; omega

/-! ### Delivered prefixes (20_memory R65) -/

theorem State.deliveredOf_isPrefix (s : State) (bytes : List Byte) : s.deliveredOf bytes <+: bytes := by
  unfold State.deliveredOf
  split
  · exact List.prefix_refl _
  · exact List.take_prefix _ _

theorem State.emit_cutPrefixes (s : State) (e : Event) :
    (s.emit e).cutPrefixes = s.cutPrefixes ++ (e.failedBytes.map s.deliveredOf).toList := by
  rcases e with (_ | _) | (_ | _) | _ | _ | _ | _ | _ | _ | _ | _ <;> simp [State.emit, State.apply, Event.failedBytes]

/-- From s to t the delivered prefixes of the events l were recorded. -/
def CutsReach (s t : State) (l : List Event) : Prop :=
  ∃ cuts, t.cutPrefixes = s.cutPrefixes ++ cuts ∧ CutsFit cuts l

theorem CutsReach.same {s t : State} (h : t.cutPrefixes = s.cutPrefixes) : CutsReach s t [] :=
  ⟨[], by simp [h], .nil⟩

theorem CutsReach.emit (s : State) (e : Event) : CutsReach s (s.emit e) [e] := by
  refine ⟨_, s.emit_cutPrefixes e, ?_⟩
  cases h : e.failedBytes with
  | none => simp [CutsFit, h]
  | some bytes => simpa [CutsFit, h] using s.deliveredOf_isPrefix bytes

theorem CutsReach.trans {s t u : State} {a b : List Event} (h : CutsReach s t a) (h' : CutsReach t u b) :
    CutsReach s u (a ++ b) := by
  obtain ⟨c, h1, h2⟩ := h
  obtain ⟨c', h3, h4⟩ := h'
  refine ⟨c ++ c', by rw [h3, h1, List.append_assoc], ?_⟩
  rw [CutsFit, List.filterMap_append]
  exact List.rel_append h2 h4

theorem CutsReach.play (l : List Event) : ∀ s : State, CutsReach s (s.play l) l := by
  induction l with
  | nil => exact fun s => .same rfl
  | cons e l ih => exact fun s => (CutsReach.emit s e).trans (ih (s.emit e))

/-! ### What playing events keeps -/

@[simp] theorem State.play_params (l : List Event) (s : State) : (s.play l).params = s.params :=
  State.play_keeps State.params State.emit_params l s
@[simp] theorem State.play_neverReturns (l : List Event) (s : State) :
    (s.play l).env.neverReturns = s.env.neverReturns :=
  State.play_keeps (fun s => s.env.neverReturns) State.emit_neverReturns l s
@[simp] theorem State.play_requests (l : List Event) (s : State) : (s.play l).env.requests = s.env.requests :=
  State.play_keeps (fun s => s.env.requests) State.emit_requests l s
@[simp] theorem State.play_surfW (l : List Event) (s : State) : (s.play l).surfW = s.surfW :=
  State.play_keeps State.surfW State.emit_surfW l s
@[simp] theorem State.play_surfH (l : List Event) (s : State) : (s.play l).surfH = s.surfH :=
  State.play_keeps State.surfH State.emit_surfH l s
@[simp] theorem State.play_rotMask (l : List Event) (s : State) : (s.play l).rotMask = s.rotMask :=
  State.play_keeps State.rotMask State.emit_rotMask l s
@[simp] theorem State.play_nSamples (l : List Event) (s : State) : (s.play l).nSamples = s.nSamples :=
  State.play_keeps State.nSamples State.emit_nSamples l s
@[simp] theorem State.play_calMinX (l : List Event) (s : State) : (s.play l).calMinX = s.calMinX :=
  State.play_keeps State.calMinX State.emit_calMinX l s
@[simp] theorem State.play_calMaxX (l : List Event) (s : State) : (s.play l).calMaxX = s.calMaxX :=
  State.play_keeps State.calMaxX State.emit_calMaxX l s
@[simp] theorem State.play_calMinY (l : List Event) (s : State) : (s.play l).calMinY = s.calMinY :=
  State.play_keeps State.calMinY State.emit_calMinY l s
@[simp] theorem State.play_calMaxY (l : List Event) (s : State) : (s.play l).calMaxY = s.calMaxY :=
  State.play_keeps State.calMaxY State.emit_calMaxY l s
@[simp] theorem State.play_scaleX (l : List Event) (s : State) : (s.play l).scaleX = s.scaleX :=
  State.play_keeps State.scaleX State.emit_scaleX l s
@[simp] theorem State.play_scaleY (l : List Event) (s : State) : (s.play l).scaleY = s.scaleY :=
  State.play_keeps State.scaleY State.emit_scaleY l s
@[simp] theorem State.play_calValid (l : List Event) (s : State) : (s.play l).calValid = s.calValid :=
  State.play_keeps State.calValid State.emit_calValid l s
@[simp] theorem State.play_initDone (l : List Event) (s : State) : (s.play l).initDone = s.initDone :=
  State.play_keeps State.initDone State.emit_initDone l s
@[simp] theorem State.play_sumX (l : List Event) (s : State) : (s.play l).sumX = s.sumX :=
  State.play_keeps State.sumX State.emit_sumX l s
@[simp] theorem State.play_sumY (l : List Event) (s : State) : (s.play l).sumY = s.sumY :=
  State.play_keeps State.sumY State.emit_sumY l s
@[simp] theorem State.play_cnt (l : List Event) (s : State) : (s.play l).cnt = s.cnt :=
  State.play_keeps State.cnt State.emit_cnt l s
@[simp] theorem State.play_status (l : List Event) (s : State) : (s.play l).status = s.status :=
  State.play_keeps State.status State.emit_status l s
@[simp] theorem State.play_resX (l : List Event) (s : State) : (s.play l).resX = s.resX :=
  State.play_keeps State.resX State.emit_resX l s
@[simp] theorem State.play_resY (l : List Event) (s : State) : (s.play l).resY = s.resY :=
  State.play_keeps State.resY State.emit_resY l s
@[simp] theorem State.play_responses (l : List Event) (s : State) : (s.play l).responses = s.responses :=
  State.play_keeps State.responses State.emit_responses l s
@[simp] theorem State.play_yExact (l : List Event) (s : State) : (s.play l).yExact = s.yExact :=
  State.play_keeps State.yExact State.emit_yExact l s

/-- A field changed only by events outside a class is unchanged by events of the class. -/
theorem State.play_keeps_of {β : Type} (f : State → β) (P : Event → Prop)
    (h : ∀ s e, P e → f (State.emit s e) = f s) :
    ∀ (l : List Event) (s : State), (∀ e ∈ l, P e) → f (s.play l) = f s
  | [], _, _ => rfl
  | e :: l, s, hl =>
    (State.play_keeps_of f P h l (s.emit e) fun e' he' => hl e' (List.mem_cons_of_mem _ he')).trans
      (h s e (hl e (List.mem_cons_self ..)))

/-! ### Plans -/

/-- The transport call of a planned event. -/
def runCall : Event → State → Run Unit
  | .sel dev => assertSelect dev
  | .desel dev => deassertSelect dev
  | .mode m => setMode m
  | .rst level => setReset level
  | .tx bytes => transmit bytes
  | .delay ms => delayMs ms
  | _ => fun s => .ok () s

/-- Running a plan. -/
def runPlan (plan : List Event) (s : State) : Run Unit := forEach runCall plan s

/-- The events a display plan is made of. -/
def Event.planned : Event → Bool
  | .sel _ | .desel _ | .mode _ | .rst _ | .tx _ | .delay _ => true
  | _ => false

@[simp] theorem Run.ok_andThen {β : Type} (u : Unit) (s : State) (f : State → Run β) :
    (Run.ok u s).andThen f = f s := rfl
@[simp] theorem Run.failed_andThen {β : Type} (s : State) (f : State → Run β) :
    (Run.failed s : Run Unit).andThen f = .failed s := rfl
@[simp] theorem Run.hung_andThen {β : Type} (s : State) (f : State → Run β) :
    (Run.hung s : Run Unit).andThen f = .hung s := rfl

theorem Run.andThen_assoc {β : Type} (r : Run Unit) (f : State → Run Unit) (g : State → Run β) :
    (r.andThen f).andThen g = r.andThen fun s => (f s).andThen g := by
  cases r <;> rfl

@[simp] theorem Run.andThen_ok (r : Run Unit) : (r.andThen fun s => .ok () s) = r := by
  cases r <;> rfl

theorem forEach_append {α : Type} (body : α → State → Run Unit) (a b : List α) :
    ∀ s, forEach body (a ++ b) s = (forEach body a s).andThen (forEach body b) := by
  induction a with
  | nil => intro s; rfl
  | cons x a ih =>
    intro s
    simp only [List.cons_append, forEach, Run.andThen_assoc]
    congr 1; funext s; exact ih s

theorem runPlan_append (a b : List Event) (s : State) :
    runPlan (a ++ b) s = (runPlan a s).andThen (runPlan b) := forEach_append runCall a b s

@[simp] theorem runPlan_nil (s : State) : runPlan [] s = .ok () s := rfl

theorem runPlan_cons (e : Event) (l : List Event) (s : State) :
    runPlan (e :: l) s = (runCall e s).andThen (runPlan l) := rfl

/-- One planned call: it returns and has its effect, its transmit fails, or it never returns. -/
theorem runCall_cases (e : Event) (he : e.planned = true) (s : State) :
    (s.callReturns = true ∧ (∀ b, e = .tx b → s.transferAt 0 = .ok) ∧ runCall e s = .ok () (s.emit e)) ∨
    (∃ b d, e = .tx b ∧ s.callReturns = true ∧ s.transferAt 0 = .fail d ∧
      runCall e s = .failed (s.emit (.txFail b))) ∨
    (s.callReturns = false ∧ ∃ c, runCall e s = .hung (s.hang c)) := by
  by_cases h : s.callReturns = true
  · cases e with
    | tx b =>
      cases ht : s.transferAt 0 with
      | ok => left; exact ⟨h, fun _ _ => rfl, by simp [runCall, transmit, h, ht]⟩
      | fail d => right; left; exact ⟨b, d, rfl, h, rfl, by simp [runCall, transmit, h, ht]⟩
    | sel d => left; exact ⟨h, by simp, by simp [runCall, assertSelect, simpleCall, h]⟩
    | desel d => left; exact ⟨h, by simp, by simp [runCall, deassertSelect, simpleCall, h]⟩
    | mode d => left; exact ⟨h, by simp, by simp [runCall, setMode, simpleCall, h]⟩
    | rst d => left; exact ⟨h, by simp, by simp [runCall, setReset, simpleCall, h]⟩
    | delay d => left; exact ⟨h, by simp, by simp [runCall, delayMs, simpleCall, h]⟩
    | _ => simp [Event.planned] at he
  · right; right
    refine ⟨by simpa using h, ?_⟩
    cases e with
    | tx b => exact ⟨_, by simp [runCall, transmit, h]; rfl⟩
    | sel d => exact ⟨_, by simp [runCall, assertSelect, simpleCall, h]; rfl⟩
    | desel d => exact ⟨_, by simp [runCall, deassertSelect, simpleCall, h]; rfl⟩
    | mode d => exact ⟨_, by simp [runCall, setMode, simpleCall, h]; rfl⟩
    | rst d => exact ⟨_, by simp [runCall, setReset, simpleCall, h]; rfl⟩
    | delay d => exact ⟨_, by simp [runCall, delayMs, simpleCall, h]; rfl⟩
    | _ => simp [Event.planned] at he

/-- Everything a plan can do: play all its events, fail at one of its transmits, or hang at one of its
calls. -/
theorem runPlan_cases : ∀ (plan : List Event), (∀ e ∈ plan, e.planned = true) → ∀ s : State,
    runPlan plan s = .ok () (s.play plan) ∨
    (∃ pre b post, plan = pre ++ .tx b :: post ∧ runPlan plan s = .failed ((s.play pre).emit (.txFail b))) ∨
    (∃ pre e post c, plan = pre ++ e :: post ∧ runPlan plan s = .hung ((s.play pre).hang c) ∧
      (s.play pre).callReturns = false)
  | [], _, s => .inl rfl
  | e :: l, hp, s => by
    have he := hp e (List.mem_cons_self ..)
    have hl : ∀ e' ∈ l, e'.planned = true := fun e' h => hp e' (List.mem_cons_of_mem _ h)
    rw [runPlan_cons]
    rcases runCall_cases e he s with ⟨_, _, h⟩ | ⟨b, d, rfl, _, _, h⟩ | ⟨hr, c, h⟩
    · rw [h, Run.ok_andThen]
      rcases runPlan_cases l hl (s.emit e) with h | ⟨pre, b, post, hpl, h⟩ | ⟨pre, e', post, c, hpl, h, hr⟩
      · exact .inl (by rw [h]; rfl)
      · exact .inr (.inl ⟨e :: pre, b, post, by simp [hpl], by rw [h]; rfl⟩)
      · exact .inr (.inr ⟨e :: pre, e', post, c, by simp [hpl], by rw [h]; rfl, hr⟩)
    · exact .inr (.inl ⟨[], b, l, rfl, by rw [h]; rfl⟩)
    · exact .inr (.inr ⟨[], e, l, c, rfl, by rw [h]; rfl, hr⟩)

theorem callReturns_of_all {s : State} (h : s.AllCallsReturn) : s.callReturns = true := by
  unfold State.AllCallsReturn at h
  simp [State.callReturns, h]

theorem AllCallsReturn_emit {s : State} (e : Event) (h : s.AllCallsReturn) : (s.emit e).AllCallsReturn := by
  simpa [State.AllCallsReturn] using h

theorem AllCallsReturn_play {s : State} (l : List Event) (h : s.AllCallsReturn) :
    (s.play l).AllCallsReturn := by
  simpa [State.AllCallsReturn] using h

@[simp] theorem AllCallsReturn_begin {s : State} (i : Instr) :
    (s.begin i).AllCallsReturn ↔ s.AllCallsReturn := Iff.rfl

@[simp] theorem transferAt_emit_tx (s : State) (b : List Byte) (k : Nat) :
    (s.emit (.tx b)).transferAt k = s.transferAt (k + 1) := by
  simp [State.transferAt, State.emit, State.apply, Nat.add_comm]

theorem transferAt_emit_other (s : State) (e : Event) (he : e.planned = true) (h : ∀ b, e ≠ .tx b) (k : Nat) :
    (s.emit e).transferAt k = s.transferAt k := by
  rcases e with (_ | _) | (_ | _) | _ | _ | _ | _ | _ | _ | _ | _ <;>
    first | rfl | exact absurd rfl (h _) | simp [Event.planned] at he

theorem txCount_cons_tx (b : List Byte) (l : List Event) : txCount (.tx b :: l) = txCount l + 1 := by
  simp [txCount]

theorem txCount_cons_other (e : Event) (l : List Event) (h : ∀ b, e ≠ .tx b) :
    txCount (e :: l) = txCount l := by
  cases e <;> first | rfl | exact absurd rfl (h _)

@[simp] theorem txCount_append (a b : List Event) : txCount (a ++ b) = txCount a + txCount b := by
  simp [txCount]

/-- With every call returning and every transmit succeeding, a plan plays all its events. -/
theorem runPlan_ok : ∀ (plan : List Event), (∀ e ∈ plan, e.planned = true) → ∀ s : State,
    s.AllCallsReturn → s.TransfersOk (txCount plan) → runPlan plan s = .ok () (s.play plan)
  | [], _, _, _, _ => rfl
  | e :: l, hp, s, hr, ht => by
    have he := hp e (List.mem_cons_self ..)
    have hl : ∀ e' ∈ l, e'.planned = true := fun e' h => hp e' (List.mem_cons_of_mem _ h)
    rw [runPlan_cons]
    rcases runCall_cases e he s with ⟨_, _, h⟩ | ⟨b, d, rfl, _, hf, _⟩ | ⟨h, _⟩
    · rw [h, Run.ok_andThen, State.play_cons]
      refine runPlan_ok l hl _ (AllCallsReturn_emit e hr) fun k hk => ?_
      by_cases htx : ∃ b, e = .tx b
      · obtain ⟨b, rfl⟩ := htx
        rw [transferAt_emit_tx]
        exact ht _ (by rw [txCount_cons_tx]; omega)
      · have hne : ∀ b, e ≠ .tx b := fun b hb => htx ⟨b, hb⟩
        rw [transferAt_emit_other s e he hne]
        exact ht _ (by rw [txCount_cons_other e l hne]; exact hk)
    · have := ht 0 (by rw [txCount_cons_tx]; omega)
      rw [this] at hf; exact absurd hf (by simp)
    · rw [callReturns_of_all hr] at h; exact absurd h (by simp)

theorem cutAt_other (k : Nat) (e : Event) (l : List Event) (h : ∀ b, e ≠ .tx b) :
    cutAt k (e :: l) = e :: cutAt k l := by
  cases e <;> first | (cases k <;> rfl) | exact absurd rfl (h _)

/-- With every call returning, a plan whose transmit number k is the first to fail stops there. -/
theorem runPlan_fail : ∀ (plan : List Event), (∀ e ∈ plan, e.planned = true) → ∀ (k : Nat) (d : Nat) (s : State),
    s.AllCallsReturn → k < txCount plan → s.TransfersOk k → s.transferAt k = .fail d →
    runPlan plan s = .failed (s.play (cutAt k plan))
  | [], _, k, _, _, _, hk, _, _ => absurd hk (by simp [txCount])
  | e :: l, hp, k, d, s, hr, hk, ht, hf => by
    have he := hp e (List.mem_cons_self ..)
    have hl : ∀ e' ∈ l, e'.planned = true := fun e' h => hp e' (List.mem_cons_of_mem _ h)
    rw [runPlan_cons]
    rcases runCall_cases e he s with ⟨_, hok, h⟩ | ⟨b, d', rfl, _, hf', h⟩ | ⟨h, _⟩
    · rw [h, Run.ok_andThen]
      by_cases htx : ∃ b, e = .tx b
      · obtain ⟨b, rfl⟩ := htx
        cases k with
        | zero => rw [hok b rfl] at hf; exact absurd hf (by simp)
        | succ k =>
          rw [runPlan_fail l hl k d _ (AllCallsReturn_emit _ hr) (by rw [txCount_cons_tx] at hk; omega)
            (fun j hj => by rw [transferAt_emit_tx]; exact ht _ (by omega))
            (by rw [transferAt_emit_tx]; exact hf)]
          rfl
      · have hne : ∀ b, e ≠ .tx b := fun b hb => htx ⟨b, hb⟩
        rw [runPlan_fail l hl k d _ (AllCallsReturn_emit _ hr) (by rwa [txCount_cons_other e l hne] at hk)
          (fun j hj => by rw [transferAt_emit_other s e he hne]; exact ht _ hj)
          (by rw [transferAt_emit_other s e he hne]; exact hf), cutAt_other k e l hne]
        rfl
    · cases k with
      | zero => rw [h]; rfl
      | succ k => have := ht 0 (by omega); rw [this] at hf'; exact absurd hf' (by simp)
    · rw [callReturns_of_all hr] at h; exact absurd h (by simp)

/-! ### Procedures that run a plan -/

/-- A procedure that, with these parameters, runs this plan. -/
def Follows (p : Params) (f : State → Run Unit) (plan : List Event) : Prop :=
  (∀ e ∈ plan, e.planned = true) ∧ ∀ s, s.params = p → f s = runPlan plan s

theorem runPlan_params {plan : List Event} (hp : ∀ e ∈ plan, e.planned = true) {s t : State} {u : Unit}
    (h : runPlan plan s = .ok u t) : t.params = s.params := by
  rcases runPlan_cases plan hp s with h' | ⟨_, _, _, _, h'⟩ | ⟨_, _, _, _, _, h', _⟩ <;> rw [h'] at h
  · cases h; simp
  · cases h
  · cases h

theorem Follows.andThen {p : Params} {f g : State → Run Unit} {a b : List Event}
    (hf : Follows p f a) (hg : Follows p g b) : Follows p (fun s => (f s).andThen g) (a ++ b) := by
  refine ⟨fun e he => ?_, fun s hs => ?_⟩
  · rcases List.mem_append.1 he with h | h
    · exact hf.1 e h
    · exact hg.1 e h
  · change (f s).andThen g = _
    rw [hf.2 s hs, runPlan_append]
    cases h : runPlan a s with
    | ok u t => exact hg.2 t ((runPlan_params hf.1 h).trans hs)
    | failed t => rfl
    | hung t => rfl

/-- Only the states with these parameters matter. -/
theorem Follows.congr {p : Params} {f g : State → Run Unit} {a : List Event} (hf : Follows p f a)
    (h : ∀ s, s.params = p → g s = f s) : Follows p g a :=
  ⟨hf.1, fun s hs => (h s hs).trans (hf.2 s hs)⟩

theorem Follows.nil (p : Params) : Follows p (fun s => .ok () s) [] := ⟨by simp, fun _ _ => rfl⟩

theorem Follows.forEach {α : Type} {p : Params} {body : α → State → Run Unit} {plan : α → List Event}
    (h : ∀ a, Follows p (body a) (plan a)) : ∀ l : List α, Follows p (forEach body l) (l.flatMap plan)
  | [] => Follows.nil p
  | a :: l => by
    have := (h a).andThen (Follows.forEach h l)
    rw [List.flatMap_cons]
    exact this

theorem Follows.call (p : Params) (e : Event) (he : e.planned = true) : Follows p (runCall e) [e] :=
  ⟨by simpa using he, fun s _ => (Run.andThen_ok _).symm⟩

theorem sendCommand_follows (p : Params) (b : Byte) : Follows p (sendCommand b) (wireCmd b) :=
  (Follows.call p (.mode .command) rfl).andThen (Follows.call p (.tx [b]) rfl)

theorem sendData_follows (p : Params) (q : List Byte) :
    Follows p (sendData q) (wireData p.chunkMax q) := by
  have h : ∀ l : List (List Byte), Follows p (Machine.forEach transmit l) (l.map Event.tx) := by
    intro l
    rw [← List.flatMap_pure_eq_map]
    exact Follows.forEach (plan := fun c => [Event.tx c]) (fun c => Follows.call p (.tx c) rfl) l
  refine ((Follows.call p (.mode .data) rfl).andThen (h (chunks p.chunkMax q))).congr fun s hs => ?_
  simp only [sendData, hs]
  rfl

theorem sendFrame_follows (p : Params) (cmd : Byte) (q : List Byte) :
    Follows p (sendFrame cmd q) (wireFrame p.chunkMax cmd q) := by
  unfold wireFrame
  by_cases hq : q = []
  · subst hq
    exact ((sendCommand_follows p cmd).andThen (Follows.nil p)).congr fun s _ => rfl
  · rw [if_neg hq]
    refine ((sendCommand_follows p cmd).andThen (sendData_follows p q)).congr fun s _ => ?_
    simp [sendFrame, List.length_pos_iff.2 hq]

theorem setWindow_follows (p : Params) (x0 y0 x1 y1 : U16) :
    Follows p (setWindow x0 y0 x1 y1) (wireWindow p x0 y0 x1 y1) := by
  have hl : wireWindow p x0 y0 x1 y1 = wireCmd p.cmdCaset ++ (wireData p.chunkMax (u16Bytes x0 ++ u16Bytes x1) ++
      (wireCmd p.cmdRaset ++ (wireData p.chunkMax (u16Bytes y0 ++ u16Bytes y1) ++ wireCmd p.cmdRamwr))) := by
    simp [wireWindow, wireFrame, u16Bytes, List.append_assoc]
  rw [hl]
  have h5 := (sendCommand_follows p p.cmdRamwr).congr (g := fun s => sendCommand s.params.cmdRamwr s)
    fun s hs => by rw [hs]
  have h4 := (sendData_follows p (u16Bytes y0 ++ u16Bytes y1)).andThen h5
  have h3 := ((sendCommand_follows p p.cmdRaset).congr (g := fun s => sendCommand s.params.cmdRaset s)
    fun s hs => by rw [hs]).andThen h4
  have h2 := (sendData_follows p (u16Bytes x0 ++ u16Bytes x1)).andThen h3
  exact ((sendCommand_follows p p.cmdCaset).congr (g := fun s => sendCommand s.params.cmdCaset s)
    fun s hs => by rw [hs]).andThen h2

theorem sendPixel_follows (p : Params) (c : U16) : Follows p (sendPixel c) (wirePixel p.chunkMax c) :=
  sendData_follows p (u16Bytes c)

theorem drawCell_follows (p : Params) (x y w h : Nat) (pixels : List U16) :
    Follows p (drawCell x y w h pixels) (wireCell p x y w h pixels) :=
  (setWindow_follows p _ _ _ _).andThen (Follows.forEach (sendPixel_follows p) pixels)

theorem delayUnlessZero_follows (p : Params) (n : Nat) : Follows p (delayUnlessZero n) (wireDelay n) := by
  by_cases h : n > 0
  · have := Follows.call p (.delay n) rfl
    rw [show wireDelay n = [.delay n] from if_pos h]
    exact this.congr fun s _ => by simp [delayUnlessZero, h, runCall]
  · rw [show wireDelay n = [] from if_neg h]
    exact (Follows.nil p).congr fun s _ => by simp [delayUnlessZero, h]

theorem sendEntry_follows (p : Params) (e : InitEntry) : Follows p (sendEntry e) (wireEntry p.chunkMax e) :=
  (sendFrame_follows p e.command e.payload).andThen (delayUnlessZero_follows p e.postDelayMs)

theorem initBody_follows (p : Params) : Follows p initBody (wireInit p) := by
  have h5 := (Follows.forEach (sendEntry_follows p) p.initTable).congr
    (g := fun s => Machine.forEach sendEntry s.params.initTable s) fun s hs => by rw [hs]
  have h4 := ((delayUnlessZero_follows p p.rstHighMs).congr (g := fun s => delayUnlessZero s.params.rstHighMs s)
    fun s hs => by rw [hs]).andThen h5
  have h3 := (Follows.call p (.rst .high) rfl).andThen h4
  have h2 := ((delayUnlessZero_follows p p.rstLowMs).congr (g := fun s => delayUnlessZero s.params.rstLowMs s)
    fun s hs => by rw [hs]).andThen h3
  have h1 := (Follows.call p (.rst .low) rfl).andThen h2
  have hl : wireInit p = [.rst .low] ++ (wireDelay p.rstLowMs ++ ([.rst .high] ++ (wireDelay p.rstHighMs ++
      p.initTable.flatMap (wireEntry p.chunkMax)))) := by
    simp [wireInit]
  rw [hl]
  exact h1

theorem writeChar_follows (p : Params) (f : Font) (fg bg : U16) (c : Placed) :
    Follows p (writeChar f fg bg c) (wireCell p c.x c.y f.gw f.gh (glyphPixels p.rowBits f c.code.toNat fg bg)) :=
  (drawCell_follows p c.x c.y f.gw f.gh (glyphPixels p.rowBits f c.code.toNat fg bg)).congr
    fun s hs => by rw [writeChar, hs]

theorem writeText_follows (p : Params) (f : Font) (fg bg : U16) (l : List Placed) :
    Follows p (Machine.forEach (writeChar f fg bg) l) (wireText p f fg bg l) :=
  Follows.forEach (writeChar_follows p f fg bg) l

/-! ### Display requests -/

/-- A scope around a plan, with every call returning and every transmit succeeding. -/
theorem inScope_ok {p : Params} {f : State → Run Unit} {plan : List Event} (hf : Follows p f plan) (dev : Dev)
    {s : State} (hs : s.params = p) (hr : s.AllCallsReturn) (ht : s.TransfersOk (txCount plan)) :
    inScope dev f s = .ok () (s.play (.sel dev :: plan ++ [.desel dev])) := by
  have hsel : ∀ k, (s.emit (.sel dev)).transferAt k = s.transferAt k :=
    transferAt_emit_other s _ rfl (by simp)
  simp only [inScope, assertSelect, simpleCall, callReturns_of_all hr, if_true, Run.ok_andThen]
  rw [hf.2 _ (by simpa using hs), runPlan_ok plan hf.1 _ (AllCallsReturn_emit _ hr)
    fun k hk => by rw [hsel]; exact ht k hk]
  simp [deassertSelect, simpleCall, callReturns_of_all (AllCallsReturn_play plan (AllCallsReturn_emit (.sel dev) hr)),
    State.play_append]

/-- A scope around a plan whose transmit number k is the first to fail. -/
theorem inScope_fail {p : Params} {f : State → Run Unit} {plan : List Event} (hf : Follows p f plan) (dev : Dev)
    {s : State} {k d : Nat} (hs : s.params = p) (hr : s.AllCallsReturn) (hk : k < txCount plan)
    (ht : s.TransfersOk k) (hd : s.transferAt k = .fail d) :
    inScope dev f s = .failed (s.play (.sel dev :: cutAt k plan ++ [.desel dev])) := by
  have hsel : ∀ k, (s.emit (.sel dev)).transferAt k = s.transferAt k :=
    transferAt_emit_other s _ rfl (by simp)
  simp only [inScope, assertSelect, simpleCall, callReturns_of_all hr, if_true, Run.ok_andThen]
  rw [hf.2 _ (by simpa using hs), runPlan_fail plan hf.1 k d _ (AllCallsReturn_emit _ hr) hk
    (fun j hj => by rw [hsel]; exact ht j hj) (by rw [hsel]; exact hd)]
  simp [deassertSelect, simpleCall,
    callReturns_of_all (AllCallsReturn_play (cutAt k plan) (AllCallsReturn_emit (.sel dev) hr)), State.play_append]

/-- Everything a scope around a plan can do. -/
theorem inScope_cases {p : Params} {f : State → Run Unit} {plan : List Event} (hf : Follows p f plan) (dev : Dev)
    {s : State} (hs : s.params = p) :
    inScope dev f s = .ok () (s.play (.sel dev :: plan ++ [.desel dev])) ∨
    (∃ pre b post, plan = pre ++ .tx b :: post ∧
      inScope dev f s = .failed (s.play (.sel dev :: pre ++ [.txFail b, .desel dev]))) ∨
    (∃ t c, inScope dev f s = .hung (t.hang c) ∧ t.callReturns = false ∧
      (t = s ∨ (∃ pre e post, plan = pre ++ e :: post ∧ t = s.play (.sel dev :: pre)) ∨
       t = s.play (.sel dev :: plan) ∨
       ∃ pre b post, plan = pre ++ .tx b :: post ∧ t = s.play (.sel dev :: pre ++ [.txFail b]))) := by
  have hdes : ∀ t : State, (deassertSelect dev t = .ok () (t.emit (.desel dev))) ∨
      (t.callReturns = false ∧ deassertSelect dev t = .hung (t.hang (.deassertSelect dev))) := by
    intro t
    by_cases h : t.callReturns = true
    · exact .inl (by simp [deassertSelect, simpleCall, h])
    · exact .inr ⟨by simpa using h, by simp [deassertSelect, simpleCall, h]⟩
  by_cases h0 : s.callReturns = true
  · simp only [inScope, assertSelect, simpleCall, h0, if_true, Run.ok_andThen]
    rw [hf.2 _ (by simpa using hs)]
    rcases runPlan_cases plan hf.1 (s.emit (.sel dev)) with h | ⟨pre, b, post, hp, h⟩ | ⟨pre, e, post, c, hp, h, hr⟩
    · rw [h]
      rcases hdes ((s.emit (.sel dev)).play plan) with hd | ⟨hr, hd⟩
      · left; simp only [hd]; simp [State.play_append]
      · right; right
        exact ⟨(s.emit (.sel dev)).play plan, _, by simp only [hd]; rfl, hr, .inr (.inr (.inl rfl))⟩
    · rw [h]
      rcases hdes (((s.emit (.sel dev)).play pre).emit (.txFail b)) with hd | ⟨hr, hd⟩
      · right; left
        exact ⟨pre, b, post, hp, by simp only [hd]; simp [State.play_append]⟩
      · right; right
        exact ⟨((s.emit (.sel dev)).play pre).emit (.txFail b), _, by simp only [hd]; rfl, hr,
          .inr (.inr (.inr ⟨pre, b, post, hp, by simp [State.play_append]⟩))⟩
    · rw [h]
      right; right
      exact ⟨(s.emit (.sel dev)).play pre, c, rfl, hr, .inr (.inl ⟨pre, e, post, hp, rfl⟩)⟩
  · right; right
    exact ⟨s, .assertSelect dev, by simp [inScope, assertSelect, simpleCall, h0], by simpa using h0, .inl rfl⟩

end Sys2Proof.Machine
end

