-- ==== Sys2Proof/Laws/Touch.lean ====
section
/-! SUPPORT. The sampling loop of TOUCH_READ: what it collects, and everything it can do. -/

namespace Sys2Proof.Machine

@[simp] theorem Run.ok_bind {α β : Type} (a : α) (s : State) (f : α → State → Run β) :
    (Run.ok a s).bind f = f a s := rfl
@[simp] theorem Run.failed_bind {α β : Type} (s : State) (f : α → State → Run β) :
    (Run.failed s : Run α).bind f = .failed s := rfl
@[simp] theorem Run.hung_bind {α β : Type} (s : State) (f : α → State → Run β) :
    (Run.hung s : Run α).bind f = .hung s := rfl

/-! ### Draws after an event -/

@[simp] theorem transferAt_emit_press (s : State) (l : Level) (k : Nat) :
    (s.emit (.press l)).transferAt k = s.transferAt k := rfl
@[simp] theorem transferAt_emit_txRx (s : State) (o r : List Byte) (k : Nat) :
    (s.emit (.txRx o r)).transferAt k = s.transferAt (k + 1) := by
  simp [State.transferAt, State.emit, State.apply, Nat.add_comm]
@[simp] theorem transferAt_accumulate (s : State) (x y : U16) (k : Nat) :
    (s.accumulate x y).transferAt k = s.transferAt k := rfl
@[simp] theorem receivedAt_emit_press (s : State) (l : Level) (k : Nat) :
    (s.emit (.press l)).receivedAt k = s.receivedAt k := rfl
@[simp] theorem receivedAt_emit_tx (s : State) (b : List Byte) (k : Nat) :
    (s.emit (.tx b)).receivedAt k = s.receivedAt k := rfl
@[simp] theorem receivedAt_emit_txRx (s : State) (o r : List Byte) (k : Nat) :
    (s.emit (.txRx o r)).receivedAt k = s.receivedAt (k + o.length) := by
  simp [State.receivedAt, State.emit, State.apply, Nat.add_comm]
@[simp] theorem receivedAt_accumulate (s : State) (x y : U16) (k : Nat) :
    (s.accumulate x y).receivedAt k = s.receivedAt k := rfl
@[simp] theorem pressAt_emit_press (s : State) (l : Level) (k : Nat) :
    (s.emit (.press l)).pressAt k = s.pressAt (k + 1) := by
  simp [State.pressAt, State.emit, State.apply, Nat.add_comm]
@[simp] theorem pressAt_emit_tx (s : State) (b : List Byte) (k : Nat) :
    (s.emit (.tx b)).pressAt k = s.pressAt k := rfl
@[simp] theorem pressAt_emit_txRx (s : State) (o r : List Byte) (k : Nat) :
    (s.emit (.txRx o r)).pressAt k = s.pressAt k := rfl
@[simp] theorem pressAt_accumulate (s : State) (x y : U16) (k : Nat) :
    (s.accumulate x y).pressAt k = s.pressAt k := rfl

theorem answerBytes_two (s : State) : s.answerBytes 2 = [s.receivedAt 0, s.receivedAt 1] := rfl

/-! ### One axis and one sample -/

theorem readAxis_ok (cmd : Byte) {s : State} (hr : s.AllCallsReturn) (h0 : s.transferAt 0 = .ok)
    (h1 : s.transferAt 1 = .ok) :
    readAxis cmd s = .ok (be16 (s.receivedAt 0) (s.receivedAt 1)) (s.play (s.axisEvents cmd 0)) := by
  simp [readAxis, transmit, transmitReceive, callReturns_of_all hr, h0, h1, State.axisEvents, wireAxis,
    callReturns_of_all (AllCallsReturn_emit (.tx [cmd]) hr), answerBytes_two]

theorem readAxis_fail0 (cmd : Byte) {s : State} {d : Nat} (hr : s.AllCallsReturn)
    (h0 : s.transferAt 0 = .fail d) : readAxis cmd s = .failed (s.emit (.txFail [cmd])) := by
  simp [readAxis, transmit, callReturns_of_all hr, h0]

theorem readAxis_fail1 (cmd : Byte) {s : State} {d : Nat} (hr : s.AllCallsReturn)
    (h0 : s.transferAt 0 = .ok) (h1 : s.transferAt 1 = .fail d) :
    readAxis cmd s = .failed ((s.emit (.tx [cmd])).emit (.txRxFail [0x00, 0x00])) := by
  simp [readAxis, transmit, transmitReceive, callReturns_of_all hr, h0, h1,
    callReturns_of_all (AllCallsReturn_emit (.tx [cmd]) hr)]

@[simp] theorem transferAt_play_axis (t s : State) (cmd : Byte) (i k : Nat) :
    (t.play (s.axisEvents cmd i)).transferAt k = t.transferAt (k + 2) := by
  simp [State.axisEvents, wireAxis]

@[simp] theorem receivedAt_play_axis (t s : State) (cmd : Byte) (i k : Nat) :
    (t.play (s.axisEvents cmd i)).receivedAt k = t.receivedAt (k + 2) := by
  simp [State.axisEvents, wireAxis]

@[simp] theorem pressAt_play_axis (t s : State) (cmd : Byte) (i k : Nat) :
    (t.play (s.axisEvents cmd i)).pressAt k = t.pressAt k := by
  simp [State.axisEvents, wireAxis]

theorem readSample_ok {s : State} (hr : s.AllCallsReturn) (ht : s.TransfersOk 4) :
    readSample s = .ok (s.rawX 0, s.rawY 0)
      (s.play (s.axisEvents s.firstCmd 0 ++ s.axisEvents s.secondCmd 2)) := by
  have h0 := ht 0 (by omega); have h1 := ht 1 (by omega); have h2 := ht 2 (by omega); have h3 := ht 3 (by omega)
  have e : ∀ cmd cmd' : Byte, (s.play (s.axisEvents cmd 0)).axisEvents cmd' 0 = s.axisEvents cmd' 2 := by
    intro cmd cmd'; simp [State.axisEvents, wireAxis]
  cases ha : s.params.axisFirst <;>
  · simp only [readSample, ha]
    rw [readAxis_ok _ hr h0 h1, Run.ok_bind, readAxis_ok _ (AllCallsReturn_play _ hr) (by simpa using h2)
      (by simpa using h3)]
    simp [State.play_append, e, State.firstCmd, State.secondCmd, ha, State.rawX, State.rawY]

theorem readSample_fail {s : State} {j d : Nat} (hr : s.AllCallsReturn) (hj : j < 4) (ht : s.TransfersOk j)
    (hd : s.transferAt j = .fail d) :
    readSample s = .failed (s.play (s.cutSampleEvents 0 j).tail) := by
  have e : ∀ cmd cmd' : Byte, (s.play (s.axisEvents cmd 0)).axisEvents cmd' 0 = s.axisEvents cmd' 2 := by
    intro cmd cmd'; simp [State.axisEvents, wireAxis]
  cases ha : s.params.axisFirst <;>
  · simp only [readSample, ha]
    match j, hj with
    | 0, _ => rw [readAxis_fail0 _ hr hd]; simp [State.cutSampleEvents, State.firstCmd, ha]
    | 1, _ =>
      rw [readAxis_fail1 _ hr (ht 0 (by omega)) hd]; simp [State.cutSampleEvents, State.firstCmd, ha]
    | 2, _ =>
      rw [readAxis_ok _ hr (ht 0 (by omega)) (ht 1 (by omega)), Run.ok_bind,
        readAxis_fail0 _ (AllCallsReturn_play _ hr) (by simpa using hd)]
      simp [State.cutSampleEvents, State.firstCmd, State.secondCmd, ha, State.play_append]
    | 3, _ =>
      rw [readAxis_ok _ hr (ht 0 (by omega)) (ht 1 (by omega)), Run.ok_bind,
        readAxis_fail1 _ (AllCallsReturn_play _ hr) (by simpa using ht 2 (by omega)) (by simpa using hd)]
      simp [State.cutSampleEvents, State.firstCmd, State.secondCmd, ha, State.play_append]

/-! ### The loop -/

/-- The state after one good sample. -/
def State.collect1 (s : State) : State := (s.play (s.sampleEvents 0)).accumulate (s.rawX 0) (s.rawY 0)

/-- The state after n good samples. -/
def State.collect : Nat → State → State
  | 0, s => s
  | n + 1, s => State.collect n s.collect1

@[simp] theorem collect1_transferAt (s : State) (k : Nat) : s.collect1.transferAt k = s.transferAt (k + 4) := by
  simp [State.collect1, State.sampleEvents, State.play_append]
@[simp] theorem collect1_receivedAt (s : State) (k : Nat) : s.collect1.receivedAt k = s.receivedAt (k + 4) := by
  simp [State.collect1, State.sampleEvents, State.play_append]
@[simp] theorem collect1_pressAt (s : State) (k : Nat) : s.collect1.pressAt k = s.pressAt (k + 1) := by
  simp [State.collect1, State.sampleEvents, State.play_append]
@[simp] theorem collect1_params (s : State) : s.collect1.params = s.params := by simp [State.collect1]
@[simp] theorem collect1_trace (s : State) : s.collect1.trace = s.trace ++ s.sampleEvents 0 := by
  simp [State.collect1]
@[simp] theorem collect1_sumX (s : State) : s.collect1.sumX = s.sumX + (s.rawX 0).setWidth 32 := by
  simp [State.collect1]
@[simp] theorem collect1_sumY (s : State) : s.collect1.sumY = s.sumY + (s.rawY 0).setWidth 32 := by
  simp [State.collect1]
@[simp] theorem collect1_cnt (s : State) : s.collect1.cnt = s.cnt + 1 := by simp [State.collect1]

theorem collect1_rawX (s : State) : s.collect1.rawX = fun i => s.rawX (i + 1) := by
  funext i
  simp only [State.rawX, collect1_params, collect1_receivedAt]
  congr 3

theorem collect1_rawY (s : State) : s.collect1.rawY = fun i => s.rawY (i + 1) := by
  funext i
  simp only [State.rawY, collect1_params, collect1_receivedAt]
  congr 3

theorem collect1_sampleEvents (s : State) : s.collect1.sampleEvents = fun i => s.sampleEvents (i + 1) := by
  funext i
  simp only [State.sampleEvents, State.axisEvents, State.firstCmd, State.secondCmd, collect1_params,
    collect1_receivedAt]
  congr 3

theorem collect1_cutSampleEvents (s : State) (i j : Nat) :
    s.collect1.cutSampleEvents i j = s.cutSampleEvents (i + 1) j := by
  simp only [State.cutSampleEvents, State.axisEvents, State.firstCmd, State.secondCmd, collect1_params,
    collect1_receivedAt]
  congr 3

theorem AllCallsReturn_collect1 {s : State} (h : s.AllCallsReturn) : s.collect1.AllCallsReturn :=
  AllCallsReturn_play _ h

theorem AllCallsReturn_collect {s : State} (n : Nat) (h : s.AllCallsReturn) :
    (State.collect n s).AllCallsReturn := by
  induction n generalizing s with
  | zero => exact h
  | succ n ih => exact ih (AllCallsReturn_collect1 h)

/-- A field that neither transport calls nor accumulation write is unchanged by collecting. -/
theorem collect_keeps {β : Type} (f : State → β) (h : ∀ s e, f (State.emit s e) = f s)
    (h' : ∀ s x y, f (State.accumulate s x y) = f s) : ∀ (n : Nat) (s : State), f (State.collect n s) = f s
  | 0, _ => rfl
  | n + 1, s => (collect_keeps f h h' n s.collect1).trans
      ((h' _ _ _).trans (State.play_keeps f h _ s))

theorem range_succ_flatMap {β : Type} (f : Nat → List β) (n : Nat) :
    (List.range (n + 1)).flatMap f = f 0 ++ (List.range n).flatMap fun i => f (i + 1) := by
  rw [List.range_succ_eq_map]
  simp [List.flatMap_map]

theorem rawSum_succ (raw : Nat → U16) (n : Nat) :
    rawSum raw (n + 1) = (raw 0).toNat + rawSum (fun i => raw (i + 1)) n := by
  simp [rawSum, List.range_succ_eq_map, Function.comp_def]

theorem collect_trace (n : Nat) : ∀ s : State,
    (State.collect n s).trace = s.trace ++ (List.range n).flatMap s.sampleEvents := by
  induction n with
  | zero => intro s; simp [State.collect]
  | succ n ih =>
    intro s
    rw [State.collect, ih, range_succ_flatMap]
    simp [collect1_sampleEvents]

theorem collect_sumX (n : Nat) : ∀ s : State,
    (State.collect n s).sumX = s.sumX + BitVec.ofNat 32 (rawSum s.rawX n) := by
  induction n with
  | zero => intro s; simp [State.collect, rawSum]
  | succ n ih =>
    intro s
    rw [State.collect, ih, rawSum_succ, collect1_sumX]
    rw [collect1_rawX, BitVec.ofNat_add, BitVec.add_assoc, show (s.rawX 0).setWidth 32 = BitVec.ofNat 32 (s.rawX 0).toNat by simp]

theorem collect_sumY (n : Nat) : ∀ s : State,
    (State.collect n s).sumY = s.sumY + BitVec.ofNat 32 (rawSum s.rawY n) := by
  induction n with
  | zero => intro s; simp [State.collect, rawSum]
  | succ n ih =>
    intro s
    rw [State.collect, ih, rawSum_succ, collect1_sumY]
    rw [collect1_rawY, BitVec.ofNat_add, BitVec.add_assoc, show (s.rawY 0).setWidth 32 = BitVec.ofNat 32 (s.rawY 0).toNat by simp]

theorem collect_cnt (n : Nat) : ∀ s : State, (State.collect n s).cnt = s.cnt + BitVec.ofNat 16 n := by
  induction n with
  | zero => intro s; simp [State.collect]
  | succ n ih =>
    intro s
    rw [State.collect, ih, collect1_cnt, Nat.add_comm n 1, BitVec.ofNat_add, BitVec.add_assoc]
    rfl

theorem collect_transferAt (n : Nat) : ∀ (s : State) (k : Nat),
    (State.collect n s).transferAt k = s.transferAt (k + 4 * n) := by
  induction n with
  | zero => intro s k; rfl
  | succ n ih => intro s k; rw [State.collect, ih, collect1_transferAt]; congr 1

theorem collect_pressAt (n : Nat) : ∀ (s : State) (k : Nat),
    (State.collect n s).pressAt k = s.pressAt (k + n) := by
  induction n with
  | zero => intro s k; rfl
  | succ n ih => intro s k; rw [State.collect, ih, collect1_pressAt]; congr 1

/-- The exact sum of n raw values fits 32 bits for every n of 16 bits (10_state R25). -/
theorem rawSum_le (raw : Nat → U16) (n : Nat) : rawSum raw n ≤ n * 65535 := by
  induction n generalizing raw with
  | zero => simp [rawSum]
  | succ n ih =>
    rw [rawSum_succ]
    have := ih fun i => raw (i + 1)
    have := (raw 0).isLt
    omega

/-- The first c iterations of the loop, all pressed and without a failure, collect c samples. -/
theorem sampleLoop_collect (c : Nat) : ∀ (n : Nat) (s : State), s.AllCallsReturn → s.PressedFor c →
    s.TransfersOk (4 * c) → sampleLoop (c + n) s = sampleLoop n (State.collect c s) := by
  induction c with
  | zero => intro n s _ _ _; rw [Nat.zero_add]; rfl
  | succ c ih =>
    intro n s hr hp ht
    have hrs := readSample_ok (AllCallsReturn_emit (.press .low) hr)
      fun k hk => by rw [transferAt_emit_press]; exact ht k (by omega)
    have hraw : (s.emit (.press .low)).rawX 0 = s.rawX 0 ∧ (s.emit (.press .low)).rawY 0 = s.rawY 0 := ⟨rfl, rfl⟩
    rw [show c + 1 + n = (c + n) + 1 by omega, sampleLoop, readPress, if_pos (callReturns_of_all hr), Run.ok_bind,
      hp 0 (by omega)]
    simp only
    rw [hrs, Run.ok_bind]
    simp only [hraw.1, hraw.2]
    rw [State.collect, ← ih n s.collect1 (AllCallsReturn_collect1 hr)
      (fun k hk => by rw [collect1_pressAt]; exact hp _ (by omega))
      (fun k hk => by rw [collect1_transferAt]; exact ht _ (by omega))]
    rfl

/-- The line found HIGH leaves the loop. -/
theorem sampleLoop_high {n : Nat} {s : State} (hr : s.AllCallsReturn) (hh : s.pressAt 0 = .high) :
    sampleLoop (n + 1) s = .ok () (s.emit (.press .high)) := by
  simp [sampleLoop, readPress, callReturns_of_all hr, hh]

/-- A failed transfer leaves the loop at that call. -/
theorem sampleLoop_fail {n j d : Nat} {s : State} (hr : s.AllCallsReturn) (hp : s.pressAt 0 = .low) (hj : j < 4)
    (ht : s.TransfersOk j) (hd : s.transferAt j = .fail d) :
    sampleLoop (n + 1) s = .failed (s.play (s.cutSampleEvents 0 j)) := by
  have h := readSample_fail (AllCallsReturn_emit (.press .low) hr) hj
    (fun k hk => by rw [transferAt_emit_press]; exact ht k hk) (by rw [transferAt_emit_press]; exact hd)
  rw [sampleLoop, readPress, if_pos (callReturns_of_all hr), Run.ok_bind, hp]
  simp only
  rw [h]
  rfl

end Sys2Proof.Machine
end

