-- ==== Sys2Proof/Laws/Exec.lean ====
section
/-! SUPPORT. Everything a request can do, said once: requests without a scope, requests with a scope of the display,
and TOUCH_READ. -/

namespace Sys2Proof.Machine

/-! ### Requests that use the display -/

/-- How a request that used the display ends when nothing failed: INIT also sets INIT_DONE. -/
def endDisplay (i : Instr) (s : State) : State :=
  if i = .init then s.setInitDone.answer .ok else s.answer .ok

theorem exec_display {i : Instr} {s : State} {plan : List Event} (h : s.displayPlan i = some plan) :
    ∃ f, Follows s.params f plan ∧
      exec i s = .next (conclude (inScope .disp f (s.begin i)) fun _ t => endDisplay i t) := by
  have fill : ∀ (x y w h : Nat) (color : U16) (j : Instr), j ≠ .init →
      (clip s.surfW.toNat s.surfH.toNat x y w h).map (fun r =>
        wireCell s.params x y r.1 r.2 (List.replicate (r.1 * r.2) color)) = some plan →
      ∃ f, Follows s.params f plan ∧ fillRegion x y w h color (s.begin j) =
        conclude (inScope .disp f (s.begin j)) fun _ t => endDisplay j t := by
    intro x y w h color j hj hm
    obtain ⟨⟨w', h'⟩, hc, rfl⟩ := Option.map_eq_some_iff.1 hm
    exact ⟨_, drawCell_follows s.params x y w' h' _, by simp [fillRegion, hc, endDisplay, hj]⟩
  cases i with
  | cfgSurface w h rot => cases h
  | cfgCal a b c d e f => cases h
  | cfgSamples n => cases h
  | touchRead => cases h
  | init =>
    by_cases hd : s.initDone = true
    · simp [State.displayPlan, hd] at h
    · simp only [State.displayPlan, hd] at h
      cases h
      exact ⟨initBody, initBody_follows s.params, by simp [exec, execInit, hd, endDisplay]⟩
  | frame cmd payload =>
    cases h
    exact ⟨_, sendFrame_follows s.params cmd payload, by simp [exec, execFrame, endDisplay]⟩
  | fillRect x y w h' color =>
    obtain ⟨f, hf, he⟩ := fill _ _ _ _ color (.fillRect x y w h' color) (by simp) h
    exact ⟨f, hf, by rw [exec, execFillRect, he]⟩
  | fillScreen color =>
    obtain ⟨f, hf, he⟩ := fill _ _ _ _ color (.fillScreen color) (by simp) h
    exact ⟨f, hf, by rw [exec, execFillScreen, he]⟩
  | clear =>
    obtain ⟨f, hf, he⟩ := fill _ _ _ _ s.params.defaultColor .clear (by simp) h
    exact ⟨f, hf, by rw [exec, execClear, he]⟩
  | writeString x y font fg bg text =>
    obtain ⟨f, hu, rfl⟩ := Option.map_eq_some_iff.1 h
    exact ⟨_, writeText_follows s.params f fg bg _, by simp [exec, execWriteString, hu, endDisplay]⟩

/-- A display request with every call returning and every transmit succeeding. -/
theorem exec_display_ok {i : Instr} {s : State} {plan : List Event} (h : s.displayPlan i = some plan)
    (hr : s.AllCallsReturn) (ht : s.TransfersOk (txCount plan)) :
    exec i s = .next (endDisplay i ((s.begin i).play (.sel .disp :: plan ++ [.desel .disp]))) := by
  obtain ⟨f, hf, he⟩ := exec_display h
  rw [he, inScope_ok (s := s.begin i) hf .disp rfl hr ht]
  rfl

/-- A display request whose transmit number k is the first to fail. -/
theorem exec_display_fail {i : Instr} {s : State} {plan : List Event} {k d : Nat}
    (h : s.displayPlan i = some plan) (hr : s.AllCallsReturn) (hk : k < txCount plan) (ht : s.TransfersOk k)
    (hd : s.transferAt k = .fail d) :
    exec i s = .next (((s.begin i).play (.sel .disp :: cutAt k plan ++ [.desel .disp])).answer .errTransport) := by
  obtain ⟨f, hf, he⟩ := exec_display h
  rw [he, inScope_fail (s := s.begin i) hf .disp rfl hr hk ht hd]
  rfl

/-- Everything a display request can do: send its plan, stop at a failed transmit, or hang. -/
theorem exec_display_cases {i : Instr} {s : State} {plan : List Event} (h : s.displayPlan i = some plan) :
    exec i s = .next (endDisplay i ((s.begin i).play (.sel .disp :: plan ++ [.desel .disp]))) ∨
    (∃ pre b post, plan = pre ++ .tx b :: post ∧ exec i s =
      .next (((s.begin i).play (.sel .disp :: pre ++ [.txFail b, .desel .disp])).answer .errTransport)) ∨
    (∃ t c, exec i s = .next (t.hang c) ∧ t.callReturns = false ∧
      (t = s.begin i ∨ (∃ pre e post, plan = pre ++ e :: post ∧ t = (s.begin i).play (.sel .disp :: pre)) ∨
       t = (s.begin i).play (.sel .disp :: plan) ∨
       ∃ pre b post, plan = pre ++ .tx b :: post ∧ t = (s.begin i).play (.sel .disp :: pre ++ [.txFail b]))) := by
  obtain ⟨f, hf, he⟩ := exec_display h
  rcases inScope_cases (s := s.begin i) hf .disp rfl with h | ⟨pre, b, post, hp, h⟩ | ⟨t, c, h, hr, ht⟩
  · exact .inl (by rw [he, h]; rfl)
  · exact .inr (.inl ⟨pre, b, post, hp, by rw [he, h]; rfl⟩)
  · exact .inr (.inr ⟨t, c, by rw [he, h]; rfl, hr, ht⟩)

/-! ### Requests without a scope -/

/-- A request that plans nothing for the display and is not TOUCH_READ only writes settings and answers. -/
theorem exec_direct {i : Instr} {s : State} (h : s.displayPlan i = none) (hi : i ≠ .touchRead) :
    ∃ k u, exec i s = .next (State.answer u k) ∧ k ∈ requestKinds i ∧ k ≠ .touch ∧ k ≠ .errTransport ∧
      (u = s.begin i ∨
       (∃ w h rot, i = .cfgSurface w h rot ∧ s.initDone = false ∧ k = .ok ∧
          u = { s.begin i with surfW := w, surfH := h, rotMask := rot }) ∨
       (∃ a b c d e f, i = .cfgCal a b c d e f ∧ calibrationLegal a b c d = true ∧ k = .ok ∧
          u = (s.begin i).setCalibration a b c d e f) ∨
       (∃ n, i = .cfgSamples n ∧ n ≠ 0 ∧ k = .ok ∧ u = { s.begin i with nSamples := n })) := by
  have fill : ∀ (x y w h : Nat) (color : U16) (j : Instr),
      (clip s.surfW.toNat s.surfH.toNat x y w h).map (fun r =>
        wireCell s.params x y r.1 r.2 (List.replicate (r.1 * r.2) color)) = none →
      fillRegion x y w h color (s.begin j) = (s.begin j).answer .ok := by
    intro x y w h color j hm
    have hc : clip (s.begin j).surfW.toNat (s.begin j).surfH.toNat x y w h = none := Option.map_eq_none_iff.1 hm
    simp only [fillRegion, hc]
  cases i with
  | cfgSurface w h' rot =>
    by_cases hd : s.initDone = true
    · refine ⟨.errLocked, s.begin _, ?_, by simp [requestKinds], by simp, by simp, .inl rfl⟩
      simp [exec, execCfgSurface, hd]
    · refine ⟨.ok, { s.begin (.cfgSurface w h' rot) with surfW := w, surfH := h', rotMask := rot }, ?_,
        by simp [requestKinds], by simp, by simp, .inr (.inl ⟨w, h', rot, rfl, by simpa using hd, rfl, rfl⟩)⟩
      simp [exec, execCfgSurface, hd]
  | cfgCal a b c d e f =>
    by_cases hc : calibrationLegal a b c d = true
    · refine ⟨.ok, (s.begin (.cfgCal a b c d e f)).setCalibration a b c d e f, ?_, by simp [requestKinds], by simp,
        by simp, .inr (.inr (.inl ⟨a, b, c, d, e, f, rfl, hc, rfl, rfl⟩))⟩
      simp [exec, execCfgCal, hc]
    · refine ⟨.errConfig, s.begin _, ?_, by simp [requestKinds], by simp, by simp, .inl rfl⟩
      simp [exec, execCfgCal, hc]
  | cfgSamples n =>
    by_cases hn : n = 0
    · refine ⟨.errConfig, s.begin _, ?_, by simp [requestKinds], by simp, by simp, .inl rfl⟩
      rw [exec, execCfgSamples, if_pos hn]
    · refine ⟨.ok, { s.begin (.cfgSamples n) with nSamples := n }, ?_, by simp [requestKinds], by simp, by simp,
        .inr (.inr (.inr ⟨n, rfl, hn, rfl, rfl⟩))⟩
      rw [exec, execCfgSamples, if_neg hn]
  | touchRead => exact absurd rfl hi
  | init =>
    by_cases hd : s.initDone = true
    · refine ⟨.errLocked, s.begin _, ?_, by simp [requestKinds], by simp, by simp, .inl rfl⟩
      simp [exec, execInit, hd]
    · simp [State.displayPlan, hd] at h
  | frame cmd payload => cases h
  | fillRect x y w h' color =>
    exact ⟨.ok, _, by rw [exec, execFillRect, fill _ _ _ _ _ _ h], by simp [requestKinds], by simp, by simp, .inl rfl⟩
  | fillScreen color =>
    exact ⟨.ok, _, by rw [exec, execFillScreen, fill _ _ _ _ _ _ h], by simp [requestKinds], by simp, by simp,
      .inl rfl⟩
  | clear =>
    exact ⟨.ok, _, by rw [exec, execClear, fill _ _ _ _ _ _ h], by simp [requestKinds], by simp, by simp, .inl rfl⟩
  | writeString x y font fg bg text =>
    have hu : usableFont s.params s.surfW.toNat s.surfH.toNat y.toNat font.toNat text = none :=
      Option.map_eq_none_iff.1 h
    refine ⟨.errOperand, s.begin _, ?_, by simp [requestKinds], by simp, by simp, .inl rfl⟩
    simp only [exec, execWriteString, State.begin_params, State.begin_surfW, State.begin_surfH]
    rw [hu]

/-! ### TOUCH_READ -/

/-- What the calls and accumulations of a touch read leave of a state that has made the events `l`. -/
structure TouchReach (s t : State) (l : List Event) : Prop where
  trace_eq : t.trace = s.trace ++ l
  calls_eq : t.env.calls = s.env.calls + l.length
  seq_eq : ∀ req n, s.seq = .busy req ⟨n, none⟩ → t.seq = .busy req ⟨n + l.length, none⟩
  surface : SameSurface s t
  calibration : SameCalibration s t
  nSamples_eq : t.nSamples = s.nSamples
  initDone_eq : t.initDone = s.initDone
  dc_eq : t.dc = s.dc
  rst_eq : t.rst = s.rst
  csDisp_eq : t.csDisp = s.csDisp
  params_eq : t.params = s.params
  requests_eq : t.env.requests = s.env.requests
  neverReturns_eq : t.env.neverReturns = s.env.neverReturns
  result_eq : t.status = s.status ∧ t.resX = s.resX ∧ t.resY = s.resY
  responses_eq : t.responses = s.responses
  yExact_eq : t.yExact = s.yExact
  cuts : CutsReach s t l

/-- The events a touch read makes. -/
def Event.ofTouch : Event → Bool
  | .sel .touch | .desel .touch | .tx _ | .txFail _ | .txRx _ _ | .txRxFail _ | .press _ => true
  | _ => false

theorem TouchReach.refl (s : State) : TouchReach s s [] :=
  ⟨by simp, rfl, fun _ _ h => h, ⟨rfl, rfl, rfl⟩, ⟨rfl, rfl, rfl, rfl, rfl, rfl, rfl⟩, rfl, rfl, rfl, rfl, rfl, rfl,
    rfl, rfl, ⟨rfl, rfl, rfl⟩, rfl, rfl, .same rfl⟩

theorem TouchReach.trans {s t u : State} {a b : List Event} (h : TouchReach s t a) (h' : TouchReach t u b) :
    TouchReach s u (a ++ b) where
  trace_eq := by rw [h'.trace_eq, h.trace_eq, List.append_assoc]
  calls_eq := by rw [h'.calls_eq, h.calls_eq, List.length_append, Nat.add_assoc]
  seq_eq req n hs := by rw [h'.seq_eq req _ (h.seq_eq req n hs), List.length_append, Nat.add_assoc]
  surface := ⟨h'.surface.1.trans h.surface.1, h'.surface.2.1.trans h.surface.2.1, h'.surface.2.2.trans h.surface.2.2⟩
  calibration := by
    obtain ⟨a1, a2, a3, a4, a5, a6, a7⟩ := h.calibration
    obtain ⟨b1, b2, b3, b4, b5, b6, b7⟩ := h'.calibration
    exact ⟨b1.trans a1, b2.trans a2, b3.trans a3, b4.trans a4, b5.trans a5, b6.trans a6, b7.trans a7⟩
  nSamples_eq := h'.nSamples_eq.trans h.nSamples_eq
  initDone_eq := h'.initDone_eq.trans h.initDone_eq
  dc_eq := h'.dc_eq.trans h.dc_eq
  rst_eq := h'.rst_eq.trans h.rst_eq
  csDisp_eq := h'.csDisp_eq.trans h.csDisp_eq
  params_eq := h'.params_eq.trans h.params_eq
  requests_eq := h'.requests_eq.trans h.requests_eq
  neverReturns_eq := h'.neverReturns_eq.trans h.neverReturns_eq
  result_eq := ⟨h'.result_eq.1.trans h.result_eq.1, h'.result_eq.2.1.trans h.result_eq.2.1,
    h'.result_eq.2.2.trans h.result_eq.2.2⟩
  responses_eq := h'.responses_eq.trans h.responses_eq
  yExact_eq := h'.yExact_eq.trans h.yExact_eq
  cuts := h.cuts.trans h'.cuts

theorem TouchReach.emit (s : State) (e : Event) (he : e.ofTouch = true) : TouchReach s (s.emit e) [e] where
  trace_eq := by simp
  calls_eq := by simp
  seq_eq req n hs := by rw [State.emit_seq, hs]; rfl
  surface := by simp [SameSurface]
  calibration := by simp [SameCalibration]
  nSamples_eq := by simp
  initDone_eq := by simp
  dc_eq := by rcases e with (_ | _) | (_ | _) | _ | _ | _ | _ | _ | _ | _ | _ <;> first | rfl | simp [Event.ofTouch] at he
  rst_eq := by rcases e with (_ | _) | (_ | _) | _ | _ | _ | _ | _ | _ | _ | _ <;> first | rfl | simp [Event.ofTouch] at he
  csDisp_eq := by
    rcases e with (_ | _) | (_ | _) | _ | _ | _ | _ | _ | _ | _ | _ <;> first | rfl | simp [Event.ofTouch] at he
  params_eq := by simp
  requests_eq := by simp
  neverReturns_eq := by simp
  result_eq := by simp
  responses_eq := by simp
  yExact_eq := by simp
  cuts := CutsReach.emit s e

theorem TouchReach.accumulate (s : State) (x y : U16) : TouchReach s (s.accumulate x y) [] :=
  ⟨by simp, rfl, fun _ _ h => h, ⟨rfl, rfl, rfl⟩, ⟨rfl, rfl, rfl, rfl, rfl, rfl, rfl⟩, rfl, rfl, rfl, rfl, rfl, rfl,
    rfl, rfl, ⟨rfl, rfl, rfl⟩, rfl, rfl, .same rfl⟩

theorem TouchReach.clearSums (s : State) : TouchReach s s.clearSums [] :=
  ⟨by simp, rfl, fun _ _ h => h, ⟨rfl, rfl, rfl⟩, ⟨rfl, rfl, rfl, rfl, rfl, rfl, rfl⟩, rfl, rfl, rfl, rfl, rfl, rfl,
    rfl, rfl, ⟨rfl, rfl, rfl⟩, rfl, rfl, .same rfl⟩

/-- The events a touch read makes inside its scope. -/
def Event.sampling : Event → Bool
  | .tx _ | .txFail _ | .txRx _ _ | .txRxFail _ | .press _ => true
  | _ => false

/-- Events made inside the scope of the touch controller that lead to the scope `sc`. -/
def TouchTrace (c : Nat) (l : List Event) (sc : Scope) : Prop :=
  Scope.touch.run c l = some sc ∧ ∀ e ∈ l, e.sampling = true

theorem Scope.run_append (c : Nat) (a b : List Event) : ∀ sc : Scope,
    sc.run c (a ++ b) = (sc.run c a).bind fun sc' => sc'.run c b := by
  induction a with
  | nil => intro sc; rfl
  | cons e a ih =>
    intro sc
    simp only [List.cons_append, Scope.run]
    cases h : sc.next c e with
    | none => rfl
    | some sc' => simpa using ih sc'

theorem TouchTrace.append {c : Nat} {a b : List Event} {sc : Scope} (ha : TouchTrace c a .touch)
    (hb : TouchTrace c b sc) : TouchTrace c (a ++ b) sc :=
  ⟨by simp [Scope.run_append, ha.1, hb.1], fun e he =>
    (List.mem_append.1 he).elim (ha.2 e) (hb.2 e)⟩

theorem TouchTrace.nil (c : Nat) : TouchTrace c [] .touch := ⟨rfl, by simp⟩

theorem TouchTrace.one {c : Nat} {e : Event} {sc : Scope} (h : Scope.touch.run c [e] = some sc)
    (he : e.sampling = true) : TouchTrace c [e] sc := ⟨h, by simpa using he⟩

/-- A procedure of the touch side: however it ends, the events it made keep the scope of the touch controller
open (ok, hung) or leave it failed (failed), and CS_TOUCH is not moved. -/
def TouchRuns {α : Type} (f : State → Run α) : Prop :=
  ∀ s c, (∃ a t l, f s = .ok a t ∧ TouchReach s t l ∧ t.csTouch = s.csTouch ∧ TouchTrace c l .touch) ∨
    (∃ t l, f s = .failed t ∧ TouchReach s t l ∧ t.csTouch = s.csTouch ∧
      TouchTrace c l (.failed .touch)) ∨
    (∃ t k l, f s = .hung (t.hang k) ∧ t.callReturns = false ∧ TouchReach s t l ∧ t.csTouch = s.csTouch ∧
      TouchTrace c l .touch)

theorem TouchRuns.bind {α β : Type} {f : State → Run α} {g : α → State → Run β} (hf : TouchRuns f)
    (hg : ∀ a, TouchRuns (g a)) : TouchRuns fun s => (f s).bind g := by
  intro s c
  rcases hf s c with ⟨a, t, l, h, hr, hc, hs⟩ | ⟨t, l, h, hr, hc, hs⟩ | ⟨t, k, l, h, hh, hr, hc, hs⟩
  · rcases hg a t c with ⟨b, u, l', h', hr', hc', hs'⟩ | ⟨u, l', h', hr', hc', hs'⟩ | ⟨u, k, l', h', hh', hr', hc', hs'⟩
    · exact .inl ⟨b, u, l ++ l', by simp [h, h'], hr.trans hr', hc'.trans hc, hs.append hs'⟩
    · exact .inr (.inl ⟨u, l ++ l', by simp [h, h'], hr.trans hr', hc'.trans hc, hs.append hs'⟩)
    · exact .inr (.inr ⟨u, k, l ++ l', by simp [h, h'], hh', hr.trans hr', hc'.trans hc,
        hs.append hs'⟩)
  · exact .inr (.inl ⟨t, l, by simp [h], hr, hc, hs⟩)
  · exact .inr (.inr ⟨t, k, l, by simp [h], hh, hr, hc, hs⟩)

theorem TouchRuns.pure {α : Type} (a : α) : TouchRuns fun s => .ok a s :=
  fun s c => .inl ⟨a, s, [], rfl, TouchReach.refl s, rfl, TouchTrace.nil c⟩

theorem transmit_touchRuns (b : Byte) : TouchRuns (transmit [b]) := by
  intro s c
  by_cases h : s.callReturns = true
  · cases ht : s.transferAt 0 with
    | ok => exact .inl ⟨(), _, [.tx [b]], by simp [transmit, h, ht], TouchReach.emit s _ rfl, rfl, TouchTrace.one rfl rfl⟩
    | fail d => exact .inr (.inl ⟨_, [.txFail [b]], by simp [transmit, h, ht], TouchReach.emit s _ rfl, rfl, TouchTrace.one rfl rfl⟩)
  · exact .inr (.inr ⟨s, _, [], by simp [transmit, h]; rfl, by simpa using h, TouchReach.refl s, rfl, TouchTrace.nil c⟩)

theorem transmitReceive_touchRuns : TouchRuns (transmitReceive [0x00, 0x00]) := by
  intro s c
  by_cases h : s.callReturns = true
  · cases ht : s.transferAt 0 with
    | ok =>
      exact .inl ⟨s.answerBytes 2, _, [.txRx [0x00, 0x00] (s.answerBytes 2)], by simp [transmitReceive, h, ht],
        TouchReach.emit s _ rfl, rfl, TouchTrace.one rfl rfl⟩
    | fail d =>
      exact .inr (.inl ⟨_, [.txRxFail [0x00, 0x00]], by simp [transmitReceive, h, ht],
        TouchReach.emit s _ rfl, rfl, TouchTrace.one rfl rfl⟩)
  · exact .inr (.inr ⟨s, _, [], by simp [transmitReceive, h]; rfl, by simpa using h, TouchReach.refl s, rfl, TouchTrace.nil c⟩)

theorem readPress_touchRuns : TouchRuns readPress := by
  intro s c
  by_cases h : s.callReturns = true
  · exact .inl ⟨s.pressAt 0, _, [.press (s.pressAt 0)], by simp [readPress, h], TouchReach.emit s _ rfl, rfl, TouchTrace.one rfl rfl⟩
  · exact .inr (.inr ⟨s, _, [], by simp [readPress, h]; rfl, by simpa using h, TouchReach.refl s, rfl, TouchTrace.nil c⟩)

theorem readAxis_touchRuns (cmd : Byte) : TouchRuns (readAxis cmd) :=
  (transmit_touchRuns cmd).bind fun _ => transmitReceive_touchRuns.bind fun _ => TouchRuns.pure _

theorem TouchRuns.congr {α : Type} {g : State → Run α} (h : ∀ s, ∃ f', TouchRuns f' ∧ g s = f' s) : TouchRuns g := by
  intro s c
  obtain ⟨f', hf, he⟩ := h s
  rw [he]
  exact hf s c

theorem readSample_touchRuns : TouchRuns readSample := by
  refine TouchRuns.congr fun s => ?_
  cases h : s.params.axisFirst with
  | x =>
    refine ⟨fun s => (readAxis s.params.cmdReadX s).bind fun rx s => (readAxis s.params.cmdReadY s).bind
      fun ry s => .ok (rx, ry) s, ?_, by simp only [readSample, h]⟩
    refine TouchRuns.bind (TouchRuns.congr fun s => ⟨_, readAxis_touchRuns s.params.cmdReadX, rfl⟩)
      fun rx => TouchRuns.bind (TouchRuns.congr fun s =>
        ⟨_, readAxis_touchRuns s.params.cmdReadY, rfl⟩) fun ry => TouchRuns.pure _
  | y =>
    refine ⟨fun s => (readAxis s.params.cmdReadY s).bind fun ry s => (readAxis s.params.cmdReadX s).bind
      fun rx s => .ok (rx, ry) s, ?_, by simp only [readSample, h]⟩
    refine TouchRuns.bind (TouchRuns.congr fun s => ⟨_, readAxis_touchRuns s.params.cmdReadY, rfl⟩)
      fun ry => TouchRuns.bind (TouchRuns.congr fun s =>
        ⟨_, readAxis_touchRuns s.params.cmdReadX, rfl⟩) fun rx => TouchRuns.pure _

/-- Everything the sampling loop can do. -/
theorem sampleLoop_touchRuns : ∀ n : Nat, TouchRuns (sampleLoop n)
  | 0 => TouchRuns.pure ()
  | n + 1 => by
    have hacc : ∀ r : U16 × U16, TouchRuns fun s => sampleLoop n (s.accumulate r.1 r.2) := by
      intro r s c
      rcases sampleLoop_touchRuns n (s.accumulate r.1 r.2) c with
        ⟨a, t, l, h, hr, hc, hs⟩ | ⟨t, l, h, hr, hc, hs⟩ | ⟨t, k, l, h, hh, hr, hc, hs⟩
      · exact .inl ⟨a, t, l, h, (TouchReach.accumulate s r.1 r.2).trans hr, hc, hs⟩
      · exact .inr (.inl ⟨t, l, h, (TouchReach.accumulate s r.1 r.2).trans hr, hc, hs⟩)
      · exact .inr (.inr ⟨t, k, l, h, hh, (TouchReach.accumulate s r.1 r.2).trans hr, hc, hs⟩)
    refine TouchRuns.bind readPress_touchRuns fun level => ?_
    cases level with
    | high => exact TouchRuns.pure ()
    | low => exact readSample_touchRuns.bind hacc

/-- The kinds TOUCH_READ can end with when its loop ended without a failure. -/
theorem finishTouch_cases (s : State) :
    finishTouch s = s.answer .noTouch ∨ ∃ x y, finishTouch s = s.answerTouch x y := by
  unfold finishTouch
  split
  · exact .inl rfl
  · exact .inr ⟨_, _, rfl⟩

/-- Everything TOUCH_READ can do. In each case `l` are the events the loop made. -/
theorem exec_touch_cases (s : State) (c : Nat) :
    (s.calValid = false ∧ exec .touchRead s = .next ((s.begin .touchRead).answer .errConfig)) ∨
    (∃ t l, exec .touchRead s = .next (finishTouch t) ∧ TouchTrace c l .touch ∧ t.csTouch = .deasserted ∧
      TouchReach (s.begin .touchRead) t (.sel .touch :: l ++ [.desel .touch])) ∨
    (∃ t l, exec .touchRead s = .next (t.answer .errTransport) ∧ TouchTrace c l (.failed .touch) ∧
      t.csTouch = .deasserted ∧ TouchReach (s.begin .touchRead) t (.sel .touch :: l ++ [.desel .touch])) ∨
    (∃ t k, exec .touchRead s = .next (t.hang k) ∧ t.callReturns = false ∧
      ((t.csTouch = s.csTouch ∧ TouchReach (s.begin .touchRead) t []) ∨
       ∃ l sc, (sc = .touch ∨ sc = .failed .touch) ∧ TouchTrace c l sc ∧ t.csTouch = .asserted ∧
        TouchReach (s.begin .touchRead) t (.sel .touch :: l))) := by
  by_cases hv : s.calValid = true
  · right
    have hex : exec .touchRead s = .next (conclude (inScope .touch (sampleLoop s.nSamples.toNat)
        (s.begin .touchRead).clearSums) fun _ t => finishTouch t) := by
      simp [exec, execTouchRead, hv]
    have hdes : ∀ t : State, (deassertSelect .touch t = .ok () (t.emit (.desel .touch))) ∨
        (t.callReturns = false ∧ deassertSelect .touch t = .hung (t.hang (.deassertSelect .touch))) := by
      intro t
      by_cases h : t.callReturns = true
      · exact .inl (by simp [deassertSelect, simpleCall, h])
      · exact .inr ⟨by simpa using h, by simp [deassertSelect, simpleCall, h]⟩
    have h0 : TouchReach (s.begin .touchRead) (s.begin .touchRead).clearSums [] := TouchReach.clearSums _
    by_cases hc : (s.begin .touchRead).clearSums.callReturns = true
    · have h1 := h0.trans (TouchReach.emit (s.begin .touchRead).clearSums (.sel .touch) rfl)
      simp only [inScope, assertSelect, simpleCall, hc, if_true, Run.ok_andThen] at hex
      rcases sampleLoop_touchRuns s.nSamples.toNat ((s.begin .touchRead).clearSums.emit (.sel .touch)) c with
        ⟨a, t, l, h, hr, hcs, hs⟩ | ⟨t, l, h, hr, hcs, hs⟩ | ⟨t, k, l, h, hh, hr, hcs, hs⟩
      · rw [h] at hex
        rcases hdes t with hd | ⟨hh, hd⟩
        · simp only [hd] at hex
          exact .inl ⟨_, l, hex, hs, rfl, by simpa using (h1.trans hr).trans (TouchReach.emit t (.desel .touch) rfl)⟩
        · simp only [hd] at hex
          exact .inr (.inr ⟨t, _, hex, hh, .inr ⟨l, .touch, .inl rfl, hs, hcs, h1.trans hr⟩⟩)
      · rw [h] at hex
        rcases hdes t with hd | ⟨hh, hd⟩
        · simp only [hd] at hex
          exact .inr (.inl ⟨_, l, hex, hs, rfl,
            by simpa using (h1.trans hr).trans (TouchReach.emit t (.desel .touch) rfl)⟩)
        · simp only [hd] at hex
          exact .inr (.inr ⟨t, _, hex, hh, .inr ⟨l, _, .inr rfl, hs, hcs, h1.trans hr⟩⟩)
      · rw [h] at hex
        exact .inr (.inr ⟨t, k, hex, hh, .inr ⟨l, .touch, .inl rfl, hs, hcs, h1.trans hr⟩⟩)
    · refine .inr (.inr ⟨(s.begin .touchRead).clearSums, .assertSelect .touch, ?_, by simpa using hc, .inl ⟨rfl, h0⟩⟩)
      rw [hex]
      simp [inScope, assertSelect, simpleCall, hc, Run.andThen, conclude]
  · exact .inl ⟨by simpa using hv, by simp [exec, execTouchRead, hv]⟩

end Sys2Proof.Machine
end

