-- ==== Sys2Proof/Laws/Wire.lean ====
section
/-! SUPPORT. What the planned events of a display request are, and what playing them does to the lines. -/

namespace Sys2Proof.Machine

/-! ### Which events a plan holds -/

/-- The events a display request makes inside its scope. -/
def Event.inner : Event → Bool
  | .mode _ | .rst _ | .tx _ | .delay _ => true
  | _ => false

/-- Those of a request other than INIT. -/
def Event.drawing : Event → Bool
  | .mode _ | .tx _ => true
  | _ => false

theorem Event.inner_of_drawing {e : Event} (h : e.drawing = true) : e.inner = true := by
  cases e <;> simp_all [Event.drawing, Event.inner]

theorem wireCmd_drawing (b : Byte) : ∀ e ∈ wireCmd b, e.drawing = true := by simp [wireCmd, Event.drawing]

theorem wireData_drawing (c : Nat) (p : List Byte) : ∀ e ∈ wireData c p, e.drawing = true := by
  intro e he
  rcases List.mem_cons.1 he with rfl | he
  · rfl
  · obtain ⟨b, _, rfl⟩ := List.mem_map.1 he
    rfl

theorem wireFrame_drawing (c : Nat) (cmd : Byte) (p : List Byte) : ∀ e ∈ wireFrame c cmd p, e.drawing = true := by
  intro e he
  rcases List.mem_append.1 he with he | he
  · exact wireCmd_drawing cmd e he
  · split at he
    · simp at he
    · exact wireData_drawing c p e he

theorem wireWindow_drawing (p : Params) (x0 y0 x1 y1 : U16) : ∀ e ∈ wireWindow p x0 y0 x1 y1, e.drawing = true := by
  intro e he
  simp only [wireWindow, List.mem_append] at he
  rcases he with (he | he) | he
  · exact wireFrame_drawing _ _ _ e he
  · exact wireFrame_drawing _ _ _ e he
  · exact wireCmd_drawing _ e he

theorem wireCell_drawing (p : Params) (x y w h : Nat) (px : List U16) :
    ∀ e ∈ wireCell p x y w h px, e.drawing = true := by
  intro e he
  rcases List.mem_append.1 he with he | he
  · exact wireWindow_drawing _ _ _ _ _ e he
  · obtain ⟨c, _, he⟩ := List.mem_flatMap.1 he
    exact wireData_drawing _ _ e he

theorem wireText_drawing (p : Params) (f : Font) (fg bg : U16) (l : List Placed) :
    ∀ e ∈ wireText p f fg bg l, e.drawing = true := by
  intro e he
  obtain ⟨c, _, he⟩ := List.mem_flatMap.1 he
  exact wireCell_drawing _ _ _ _ _ _ e he

theorem wireDelay_inner (n : Nat) : ∀ e ∈ wireDelay n, e.inner = true := by
  intro e he
  unfold wireDelay at he
  split at he
  · obtain rfl := List.mem_singleton.1 he
    rfl
  · simp at he

theorem wireInit_inner (p : Params) : ∀ e ∈ wireInit p, e.inner = true := by
  intro e he
  simp only [wireInit, List.mem_append, List.mem_singleton] at he
  rcases he with (((rfl | he) | rfl) | he) | he
  · rfl
  · exact wireDelay_inner _ e he
  · rfl
  · exact wireDelay_inner _ e he
  · obtain ⟨en, _, he⟩ := List.mem_flatMap.1 he
    rcases List.mem_append.1 he with he | he
    · exact Event.inner_of_drawing (wireFrame_drawing _ _ _ e he)
    · exact wireDelay_inner _ e he

/-- A plan of a request other than INIT only sets the mode and transmits. -/
theorem displayPlan_drawing {i : Instr} {s : State} {plan : List Event} (h : s.displayPlan i = some plan)
    (hi : i ≠ .init) : ∀ e ∈ plan, e.drawing = true := by
  cases i with
  | cfgSurface w h' rot => cases h
  | cfgCal a b c d e f => cases h
  | cfgSamples n => cases h
  | touchRead => cases h
  | init => exact absurd rfl hi
  | frame cmd payload => cases h; exact wireFrame_drawing _ _ _
  | fillRect x y w h' color =>
    obtain ⟨r, _, rfl⟩ := Option.map_eq_some_iff.1 h
    exact wireCell_drawing _ _ _ _ _ _
  | fillScreen color =>
    obtain ⟨r, _, rfl⟩ := Option.map_eq_some_iff.1 h
    exact wireCell_drawing _ _ _ _ _ _
  | clear =>
    obtain ⟨r, _, rfl⟩ := Option.map_eq_some_iff.1 h
    exact wireCell_drawing _ _ _ _ _ _
  | writeString x y font fg bg text =>
    obtain ⟨f, _, rfl⟩ := Option.map_eq_some_iff.1 h
    exact wireText_drawing _ _ _ _ _

/-- A plan never touches a select line. -/
theorem displayPlan_inner {i : Instr} {s : State} {plan : List Event} (h : s.displayPlan i = some plan) :
    ∀ e ∈ plan, e.inner = true := by
  by_cases hi : i = .init
  · subst hi
    by_cases hd : s.initDone = true
    · simp [State.displayPlan, hd] at h
    · simp only [State.displayPlan, hd] at h
      cases h
      exact wireInit_inner s.params
  · exact fun e he => Event.inner_of_drawing (displayPlan_drawing h hi e he)

/-! ### What playing events does to the lines -/

theorem State.emit_lines (s : State) (e : Event) : (s.emit e).lines = s.lines.apply e := by
  rcases e with (_ | _) | (_ | _) | _ | _ | _ | _ | _ | _ | _ | _ <;> rfl

theorem State.play_lines (l : List Event) : ∀ s : State, (s.play l).lines = l.foldl Lines.apply s.lines := by
  induction l with
  | nil => intro s; rfl
  | cons e l ih => intro s; rw [State.play_cons, ih, State.emit_lines]; rfl

theorem State.play_csDisp {l : List Event} (h : ∀ e ∈ l, e.inner = true) (s : State) :
    (s.play l).csDisp = s.csDisp :=
  State.play_keeps_of State.csDisp (fun e => e.inner = true)
    (fun s e he => by cases e <;> first | rfl | simp [Event.inner] at he) l s h

theorem State.play_csTouch {l : List Event} (h : ∀ e ∈ l, e.inner = true) (s : State) :
    (s.play l).csTouch = s.csTouch :=
  State.play_keeps_of State.csTouch (fun e => e.inner = true)
    (fun s e he => by cases e <;> first | rfl | simp [Event.inner] at he) l s h

theorem State.play_rst {l : List Event} (h : ∀ e ∈ l, e.drawing = true) (s : State) :
    (s.play l).rst = s.rst :=
  State.play_keeps_of State.rst (fun e => e.drawing = true)
    (fun s e he => by cases e <;> first | rfl | simp [Event.drawing] at he) l s h

theorem State.play_cutPrefixes {l : List Event} (h : ∀ e ∈ l, e.inner = true) (s : State) :
    (s.play l).cutPrefixes = s.cutPrefixes :=
  State.play_keeps_of State.cutPrefixes (fun e => e.inner = true)
    (fun s e he => by cases e <;> first | rfl | simp [Event.inner] at he) l s h

theorem State.play_seq (l : List Event) : ∀ (s : State) (i : Instr) (n : Nat), s.seq = .busy i ⟨n, none⟩ →
    (s.play l).seq = .busy i ⟨n + l.length, none⟩ := by
  induction l with
  | nil => intro s i n h; simpa using h
  | cons e l ih =>
    intro s i n h
    rw [State.play_cons, ih _ i (n + 1) (by rw [State.emit_seq, h]; rfl), List.length_cons, Nat.add_assoc,
      Nat.add_comm 1]

theorem foldl_lines_csDisp {l : List Event} (h : ∀ e ∈ l, e.inner = true) (a : Lines) :
    (l.foldl Lines.apply a).csDisp = a.csDisp := by
  induction l generalizing a with
  | nil => rfl
  | cons e l ih =>
    rw [List.foldl_cons, ih fun e' h' => h e' (List.mem_cons_of_mem _ h')]
    have := h e (List.mem_cons_self ..)
    cases e <;> first | rfl | simp [Event.inner] at this

/-- The wire view of a trace is that of its parts, each from the lines the part before it leaves. -/
theorem wireView_append (a b : List Event) : ∀ l : Lines,
    wireView l (a ++ b) = wireView l a ++ wireView (a.foldl Lines.apply l) b := by
  induction a with
  | nil => intro l; rfl
  | cons e a ih => intro l; simp [wireView, ih]

/-! ### The byte streams (20_memory R52) -/

/-- The display stream of a trace is that of its parts. -/
theorem displayStream_append (a b : List Event) : ∀ (l : Lines) (cuts : List (List Byte)),
    displayStream l cuts (a ++ b) =
      displayStream l cuts a ++ displayStream (a.foldl Lines.apply l) (a.foldl Event.cutsAfter cuts) b := by
  induction a with
  | nil => intro l cuts; rfl
  | cons e a ih => intro l cuts; simp [displayStream, ih]

/-- The touch stream of a trace is that of its parts. -/
theorem touchStream_append (a b : List Event) : ∀ (l : Lines) (cuts : List (List Byte)),
    touchStream l cuts (a ++ b) =
      touchStream l cuts a ++ touchStream (a.foldl Lines.apply l) (a.foldl Event.cutsAfter cuts) b := by
  induction a with
  | nil => intro l cuts; rfl
  | cons e a ih => intro l cuts; simp [touchStream, ih]

/-- A controller that is not selected, and does not come to be, receives nothing. -/
theorem displayStream_deselected (a : List Event) (h : .sel .disp ∉ a) : ∀ (l : Lines) (cuts : List (List Byte)),
    l.csDisp = .deasserted → displayStream l cuts a = [] := by
  induction a with
  | nil => intro l cuts _; rfl
  | cons e a ih =>
    intro l cuts hl
    have hnext : (l.apply e).csDisp = .deasserted := by
      rcases e with (_ | _) | (_ | _) | _ | _ | _ | _ | _ | _ | _ | _ <;>
        first
        | exact hl
        | rfl
        | exact absurd (List.mem_cons_self ..) h
    simp [displayStream, hl, ih (fun hm => h (List.mem_cons_of_mem _ hm)) _ _ hnext]

theorem touchStream_deselected (a : List Event) (h : .sel .touch ∉ a) : ∀ (l : Lines) (cuts : List (List Byte)),
    l.csTouch = .deasserted → touchStream l cuts a = [] := by
  induction a with
  | nil => intro l cuts _; rfl
  | cons e a ih =>
    intro l cuts hl
    have hnext : (l.apply e).csTouch = .deasserted := by
      rcases e with (_ | _) | (_ | _) | _ | _ | _ | _ | _ | _ | _ | _ <;>
        first
        | exact hl
        | rfl
        | exact absurd (List.mem_cons_self ..) h
    simp [touchStream, hl, ih (fun hm => h (List.mem_cons_of_mem _ hm)) _ _ hnext]

end Sys2Proof.Machine
end

