-- ==== Sys2Proof/Laws/Framing.lean ====
section
/-! SUPPORT. How chunks cover a payload; how many transmits each wire format makes and the lines it leaves; and what
a display request that meets no failure leaves. -/

namespace Sys2Proof.Machine

/-! ### Chunks (40_framer R102) -/

@[simp] theorem chunks_length (c : Nat) (p : List Byte) : (chunks c p).length = ceilDiv p.length c := by simp [chunks]

theorem chunks_get {c k : Nat} {p x : List Byte} (h : (chunks c p)[k]? = some x) :
    k < ceilDiv p.length c ∧ x = (p.drop (k * c)).take c := by
  simp only [chunks, List.getElem?_map, Option.map_eq_some_iff] at h
  obtain ⟨a, ha, rfl⟩ := h
  rw [List.getElem?_eq_some_iff] at ha
  obtain ⟨h1, h2⟩ := ha
  simp at h1 h2
  subst h2
  exact ⟨h1, rfl⟩

theorem flatten_take (c : Nat) (p : List Byte) (n : Nat) :
    ((List.range n).map fun k => (p.drop (k * c)).take c).flatten = p.take (n * c) := by
  induction n with
  | zero => simp
  | succ n ih =>
    rw [List.range_succ, List.map_append, List.flatten_append, ih]
    simp only [List.map_cons, List.map_nil, List.flatten_cons, List.flatten_nil, List.append_nil]
    rw [Nat.succ_mul, List.take_add]

theorem ceilDiv_bounds (len c : Nat) (hc : 1 ≤ c) :
    len ≤ ceilDiv len c * c ∧ ∀ k, k < ceilDiv len c → k * c < len := by
  unfold ceilDiv
  constructor
  · have h1 := Nat.div_add_mod (len + c - 1) c
    have h2 := Nat.mod_lt (len + c - 1) (show c > 0 by omega)
    have h3 : c * ((len + c - 1) / c) = (len + c - 1) / c * c := Nat.mul_comm ..
    omega
  · intro k hk
    have : (k + 1) * c ≤ len + c - 1 := by
      calc (k + 1) * c ≤ ((len + c - 1) / c) * c := Nat.mul_le_mul_right _ hk
        _ ≤ len + c - 1 := Nat.div_mul_le_self _ _
    rw [Nat.succ_mul] at this
    omega

theorem chunks_flatten (c : Nat) (p : List Byte) (h : 1 ≤ c) : (chunks c p).flatten = p := by
  rw [chunks, flatten_take, List.take_of_length_le (ceilDiv_bounds _ _ h).1]

theorem chunks_mem {c : Nat} {p : List Byte} (hc : 1 ≤ c) : ∀ x ∈ chunks c p, 1 ≤ x.length ∧ x.length ≤ c := by
  intro x hx
  obtain ⟨k, hk⟩ := List.mem_iff_getElem?.1 hx
  obtain ⟨h1, rfl⟩ := chunks_get hk
  have := (ceilDiv_bounds p.length c hc).2 k h1
  simp only [List.length_take, List.length_drop]
  omega

/-! ### Transmit counts (30_encoding R71 to R75) -/

theorem txCount_map (l : List (List Byte)) : txCount (l.map Event.tx) = l.length := by
  induction l with
  | nil => rfl
  | cons a l ih => rw [List.map_cons, txCount_cons_tx, ih]; rfl

theorem txCount_mode (m : DcMode) (l : List Event) : txCount (.mode m :: l) = txCount l :=
  txCount_cons_other _ _ (by simp)

theorem txCount_wireCmd (b : Byte) : txCount (wireCmd b) = 1 := rfl

theorem txCount_wireData (c : Nat) (p : List Byte) : txCount (wireData c p) = ceilDiv p.length c := by
  rw [wireData, txCount_mode, txCount_map, chunks_length]

theorem txCount_wireFrame (c : Nat) (cmd : Byte) (p : List Byte) (h : 1 ≤ c ∨ p ≠ []) :
    txCount (wireFrame c cmd p) = 1 + ceilDiv p.length c := by
  rw [wireFrame, txCount_append, txCount_wireCmd]
  split
  · rename_i h'
    subst h'
    have : 1 ≤ c := by simpa using h
    simp [ceilDiv, Nat.div_eq_of_lt (show c - 1 < c by omega), txCount]
  · rw [txCount_wireData]

theorem txCount_wireWindow (p : Params) (x0 y0 x1 y1 : U16) :
    txCount (wireWindow p x0 y0 x1 y1) = 3 + 2 * ceilDiv 4 p.chunkMax := by
  simp only [wireWindow, txCount_append, txCount_wireCmd]
  rw [txCount_wireFrame _ _ _ (by simp), txCount_wireFrame _ _ _ (by simp)]
  simp
  omega

theorem txCount_flatMap {α : Type} (l : List α) (f : α → List Event) (n : Nat) (h : ∀ a, txCount (f a) = n) :
    txCount (l.flatMap f) = l.length * n := by
  induction l with
  | nil => simp [txCount]
  | cons a l ih => rw [List.flatMap_cons, txCount_append, h, ih, List.length_cons]; ring

theorem txCount_wireCell (p : Params) (x y w h : Nat) (pixels : List U16) :
    txCount (wireCell p x y w h pixels) = 3 + 2 * ceilDiv 4 p.chunkMax + pixels.length * ceilDiv 2 p.chunkMax := by
  rw [wireCell, txCount_append, txCount_wireWindow, txCount_flatMap (n := ceilDiv 2 p.chunkMax)]
  intro a
  rw [wirePixel, txCount_wireData]
  rfl

/-! ### The lines a wire format leaves -/

theorem txs_lines (l : List (List Byte)) (a : Lines) : (l.map Event.tx).foldl Lines.apply a = a := by
  induction l generalizing a with
  | nil => rfl
  | cons b l ih => exact ih a

theorem wireCmd_lines (b : Byte) (a : Lines) : (wireCmd b).foldl Lines.apply a = { a with dc := .command } := rfl

theorem wireData_lines (c : Nat) (p : List Byte) (a : Lines) :
    (wireData c p).foldl Lines.apply a = { a with dc := .data } := by
  rw [wireData, List.foldl_cons, txs_lines]
  rfl

theorem wireFrame_lines (c : Nat) (b : Byte) (p : List Byte) (a : Lines) :
    (wireFrame c b p).foldl Lines.apply a = { a with dc := if p = [] then .command else .data } := by
  rw [wireFrame, List.foldl_append, wireCmd_lines]
  split
  · rfl
  · rw [wireData_lines]

theorem wireWindow_lines (p : Params) (x0 y0 x1 y1 : U16) (a : Lines) :
    (wireWindow p x0 y0 x1 y1).foldl Lines.apply a = { a with dc := .command } := by
  simp [wireWindow, List.foldl_append, wireFrame_lines, wireCmd_lines]

theorem pixels_lines (c : Nat) : ∀ (l : List U16) (a : Lines), l ≠ [] →
    (l.flatMap (wirePixel c)).foldl Lines.apply a = { a with dc := .data }
  | [], _, h => absurd rfl h
  | [b], a, _ => by rw [List.flatMap_cons, List.foldl_append, wirePixel, wireData_lines]; rfl
  | b :: d :: l, a, _ => by
    rw [List.flatMap_cons, List.foldl_append, wirePixel, wireData_lines, pixels_lines c (d :: l) _ (by simp)]

theorem wireCell_lines (p : Params) (x y w h : Nat) (pixels : List U16) (a : Lines) (hp : pixels ≠ []) :
    (wireCell p x y w h pixels).foldl Lines.apply a = { a with dc := .data } := by
  rw [wireCell, List.foldl_append, wireWindow_lines, pixels_lines _ _ _ hp]

/-! ### A display request that meets no failure -/

theorem Lines.apply_dc (l : List Event) : ∀ a b : Lines, a.dc = b.dc →
    (l.foldl Lines.apply a).dc = (l.foldl Lines.apply b).dc := by
  induction l with
  | nil => exact fun _ _ h => h
  | cons e l ih =>
    intro a b h
    apply ih
    rcases e with (_ | _) | (_ | _) | _ | _ | _ | _ | _ | _ | _ | _ <;> first | exact h | rfl

theorem State.play_rst_of (l : List Event) : ∀ a b : State, a.rst = b.rst → (a.play l).rst = (b.play l).rst := by
  induction l with
  | nil => exact fun _ _ h => h
  | cons e l ih =>
    intro a b h
    apply ih
    rcases e with (_ | _) | (_ | _) | _ | _ | _ | _ | _ | _ | _ | _ <;> first | exact h | rfl

/-- The lines after a whole scope of the display. -/
theorem play_scope {i : Instr} {s : State} {plan : List Event} (h : s.displayPlan i = some plan) :
    let u := (s.begin i).play (.sel .disp :: plan ++ [.desel .disp])
    u.csDisp = .deasserted ∧ u.csTouch = s.csTouch ∧ u.dc = (plan.foldl Lines.apply s.lines).dc ∧
      u.rst = (s.play plan).rst ∧ (i ≠ .init → u.rst = s.rst) := by
  have hin := displayPlan_inner h
  have drop : (s.begin i).play (.sel .disp :: plan ++ [.desel .disp]) =
      (((s.begin i).emit (.sel .disp)).play plan).emit (.desel .disp) := by rw [State.play_append]; rfl
  have hl := State.play_lines plan ((s.begin i).emit (.sel .disp))
  have hrst : ((s.begin i).play (.sel .disp :: plan ++ [.desel .disp])).rst =
      (((s.begin i).emit (.sel .disp)).play plan).rst := by rw [drop]; rfl
  refine ⟨by rw [drop]; rfl, ?_, ?_, ?_, fun hi => ?_⟩
  · rw [drop]
    exact (State.play_csTouch hin _).trans rfl
  · rw [drop]
    exact (congrArg Lines.dc hl).trans (Lines.apply_dc plan _ _ rfl)
  · exact hrst.trans (State.play_rst_of plan _ _ rfl)
  · exact hrst.trans ((State.play_rst (displayPlan_drawing h hi) _).trans rfl)

/-- What a display request that meets no failure leaves. -/
theorem display_ok {i : Instr} {s : State} {plan : List Event} (h : s.displayPlan i = some plan)
    (hr : s.AllCallsReturn) (ht : s.TransfersOk (txCount plan)) :
    ∃ t, exec i s = .next t ∧ t.trace = s.trace ++ (.sel .disp :: plan ++ [.desel .disp]) ∧
      Answered s t 0x00 0 0 ∧ DisplayFrame s t ∧ t.dc = (plan.foldl Lines.apply s.lines).dc ∧
      (i ≠ .init → t.rst = s.rst ∧ t.initDone = s.initDone) ∧
      (i = .init → t.rst = (s.play plan).rst ∧ t.initDone = true) := by
  obtain ⟨hcd, hcs, hdc, hr1, hr2⟩ := play_scope h
  refine ⟨_, exec_display_ok h hr ht, ?_⟩
  have frame : ∀ u : State, u = (s.begin i).play (.sel .disp :: plan ++ [.desel .disp]) →
      DisplayFrame s u := by
    intro u hu
    subst hu
    refine ⟨⟨by simp, by simp, by simp⟩, ?_, by simp, hcd, hcs, ?_, by simp, by simp⟩
    · refine ⟨?_, ?_, ?_, ?_, ?_, ?_, ?_⟩ <;> simp
    · refine ⟨?_, ?_, ?_⟩ <;> simp
  obtain ⟨f1, f2, f3, f4, f5, f6, f7, f8⟩ := frame _ rfl
  by_cases hi : i = .init
  · subst hi
    simp only [endDisplay, if_true]
    exact ⟨by simp, ⟨rfl, rfl, rfl, rfl, by simp [Kind.code]⟩, ⟨f1, f2, f3, f4, f5, f6, f7, f8⟩, hdc,
      fun hx => absurd rfl hx, fun _ => ⟨hr1, rfl⟩⟩
  · simp only [endDisplay, hi, if_false]
    exact ⟨by simp, ⟨rfl, rfl, rfl, rfl, by simp [Kind.code]⟩, ⟨f1, f2, f3, f4, f5, f6, f7, f8⟩, hdc,
      fun _ => ⟨hr2 hi, by simp⟩, False.elim⟩

end Sys2Proof.Machine
end

