-- ==== Sys2Proof/Laws/PerInstr.lean ====
section
/-! SUPPORT. The family OpcodeByte: each request's encoding starts with the opcode of its row, is as long as its
format says (30_encoding R79, R80). -/

namespace Sys2Proof.Laws.OpcodeByte

/-- What is said of every request: byte 0 of its encoding, and its length. -/
def Statement (i : Instr) : Prop :=
  (encode i).head? = some i.opcode ∧ (encode i).length = i.requestLength

theorem cfgSurface (w h : U16) (rot : Byte) : Statement (.cfgSurface w h rot) := ⟨rfl, rfl⟩

theorem cfgCal (minX maxX minY maxY scaleX scaleY : U16) :
    Statement (.cfgCal minX maxX minY maxY scaleX scaleY) := ⟨rfl, rfl⟩

theorem cfgSamples (n : U16) : Statement (.cfgSamples n) := ⟨rfl, rfl⟩

theorem init : Statement .init := ⟨rfl, rfl⟩

theorem frame (cmd : Byte) (payload : List Byte) : Statement (.frame cmd payload) :=
  ⟨rfl, by simp [encode, Instr.fieldBytes, Instr.requestLength, u32Bytes]; omega⟩

theorem fillRect (x y w h color : U16) : Statement (.fillRect x y w h color) := ⟨rfl, rfl⟩

theorem fillScreen (color : U16) : Statement (.fillScreen color) := ⟨rfl, rfl⟩

theorem clear : Statement .clear := ⟨rfl, rfl⟩

theorem writeString (x y : U16) (font : Byte) (fg bg : U16) (text : List Byte) :
    Statement (.writeString x y font fg bg text) :=
  ⟨rfl, by simp [encode, Instr.fieldBytes, Instr.requestLength, u16Bytes]; omega⟩

theorem touchRead : Statement .touchRead := ⟨rfl, rfl⟩

end Sys2Proof.Laws.OpcodeByte
end

