-- ==== Sys2Proof/Laws/Shape.lean ====
section
/-! SUPPORT. The ways a request can go, in one classification, and what ending a touch read leaves. -/

namespace Sys2Proof.Machine

/-- Steps 4 to 6 of TOUCH_READ write only the result registers and the response history (44_touch R170). -/
structure OnlyAnswers (u t : State) : Prop where
  trace_eq : t.trace = u.trace
  surface : SameSurface u t
  calibration : SameCalibration u t
  sums : SameSums u t
  nSamples_eq : t.nSamples = u.nSamples
  initDone_eq : t.initDone = u.initDone
  csDisp_eq : t.csDisp = u.csDisp
  csTouch_eq : t.csTouch = u.csTouch
  dc_eq : t.dc = u.dc
  rst_eq : t.rst = u.rst
  params_eq : t.params = u.params
  env_eq : t.env = u.env
  idle : t.seq = .idle

theorem answer_onlyAnswers (u : State) (k : Kind) : OnlyAnswers u (u.answer k) :=
  ⟨rfl, ⟨rfl, rfl, rfl⟩, ⟨rfl, rfl, rfl, rfl, rfl, rfl, rfl⟩, ⟨rfl, rfl, rfl⟩, rfl, rfl, rfl, rfl, rfl, rfl, rfl, rfl, rfl⟩

theorem finishTouch_onlyAnswers (u : State) : OnlyAnswers u (finishTouch u) := by
  rcases finishTouch_cases u with h | ⟨x, y, h⟩ <;> rw [h]
  · exact answer_onlyAnswers u _
  · exact ⟨rfl, ⟨rfl, rfl, rfl⟩, ⟨rfl, rfl, rfl, rfl, rfl, rfl, rfl⟩, ⟨rfl, rfl, rfl⟩, rfl, rfl, rfl, rfl, rfl, rfl, rfl,
      rfl, rfl⟩

theorem endDisplay_keeps (i : Instr) (u : State) :
    (endDisplay i u).seq = .idle ∧ (endDisplay i u).status = 0 ∧ (endDisplay i u).resX = 0 ∧
    (endDisplay i u).resY = 0 ∧ (endDisplay i u).yExact = none ∧
    (endDisplay i u).responses = u.responses ++ [⟨0, 0, 0⟩] ∧ (endDisplay i u).trace = u.trace ∧
    (endDisplay i u).params = u.params ∧ (endDisplay i u).env = u.env ∧ (endDisplay i u).csDisp = u.csDisp ∧
    (endDisplay i u).csTouch = u.csTouch ∧ (endDisplay i u).dc = u.dc ∧ (endDisplay i u).rst = u.rst ∧
    (endDisplay i u).nSamples = u.nSamples ∧ SameCalibration u (endDisplay i u) ∧ SameSurface u (endDisplay i u) ∧
    SameSums u (endDisplay i u) := by
  unfold endDisplay
  split <;> exact ⟨rfl, rfl, rfl, rfl, rfl, rfl, rfl, rfl, rfl, rfl, rfl, rfl, rfl, rfl,
    ⟨rfl, rfl, rfl, rfl, rfl, rfl, rfl⟩, ⟨rfl, rfl, rfl⟩, ⟨rfl, rfl, rfl⟩⟩

/-- The ways `exec` can answer: at once with no transport call; with a scope of the display that went well, met
a failure or hung; with a scope of the touch controller that went well, met a failure or hung. -/
inductive Shape (i : Instr) (s t : State) : Prop
  | direct (k : Kind) (u : State) (ends : t = u.answer k) (noBus : s.usesBus i = false)
      (kind : k ∈ requestKinds i) (notTouch : k ≠ .touch) (notTransport : k ≠ .errTransport)
      (writes : u = s.begin i ∨
        (∃ w h rot, i = .cfgSurface w h rot ∧ s.initDone = false ∧ k = .ok ∧
          u = { s.begin i with surfW := w, surfH := h, rotMask := rot }) ∨
        (∃ a b c d e f, i = .cfgCal a b c d e f ∧ calibrationLegal a b c d = true ∧ k = .ok ∧
          u = (s.begin i).setCalibration a b c d e f) ∨
        (∃ n, i = .cfgSamples n ∧ n ≠ 0 ∧ k = .ok ∧ u = { s.begin i with nSamples := n }))
  | dispOk (plan : List Event) (planned : s.displayPlan i = some plan)
      (ends : t = endDisplay i ((s.begin i).play (.sel .disp :: plan ++ [.desel .disp])))
  | dispFail (pre : List Event) (b : List Byte) (post : List Event)
      (planned : s.displayPlan i = some (pre ++ .tx b :: post))
      (ends : t = ((s.begin i).play (.sel .disp :: pre ++ [.txFail b, .desel .disp])).answer .errTransport)
  | dispHung (l : List Event) (c : Call) (plan : List Event) (planned : s.displayPlan i = some plan)
      (made : l = [] ∨ ∃ m, l = .sel .disp :: m ∧
        ((∃ r, plan = m ++ r) ∨ ∃ pre b post, plan = pre ++ .tx b :: post ∧ m = pre ++ [.txFail b]))
      (hangs : ((s.begin i).play l).callReturns = false) (ends : t = ((s.begin i).play l).hang c)
  | touchDone (u : State) (l : List Event) (req : i = .touchRead) (valid : s.calValid = true)
      (ends : t = finishTouch u) (scope : ∀ c, Scope.touch.run c l = some .touch)
      (sampling : ∀ e ∈ l, e.sampling = true) (closed : u.csTouch = .deasserted)
      (reach : TouchReach (s.begin .touchRead) u (.sel .touch :: l ++ [.desel .touch]))
  | touchFail (u : State) (l : List Event) (req : i = .touchRead) (valid : s.calValid = true)
      (ends : t = u.answer .errTransport) (scope : ∀ c, Scope.touch.run c l = some (.failed .touch))
      (sampling : ∀ e ∈ l, e.sampling = true) (closed : u.csTouch = .deasserted)
      (reach : TouchReach (s.begin .touchRead) u (.sel .touch :: l ++ [.desel .touch]))
  | touchHung (u : State) (c : Call) (req : i = .touchRead) (ends : t = u.hang c) (hangs : u.callReturns = false)
      (reach : (u.csTouch = s.csTouch ∧ TouchReach (s.begin .touchRead) u []) ∨
        ∃ l sc, (sc = .touch ∨ sc = .failed .touch) ∧ (∀ c, Scope.touch.run c l = some sc) ∧
          (∀ e ∈ l, e.sampling = true) ∧ u.csTouch = .asserted ∧
          TouchReach (s.begin .touchRead) u (.sel .touch :: l))

/-- The chunk limit plays no part in a scope of the touch controller. -/
theorem touch_run_chunk (c c' : Nat) : ∀ l : List Event, (∀ e ∈ l, e.sampling = true) →
    ∀ a, (a = .touch ∨ a = .failed .touch) → Scope.run c a l = Scope.run c' a l
  | [], _, _, _ => rfl
  | e :: l, h, a, ha => by
    have he := h e (List.mem_cons_self ..)
    have hnx : a.next c e = a.next c' e ∧ ∀ b, a.next c e = some b → b = .touch ∨ b = .failed .touch := by
      rcases ha with rfl | rfl <;> cases e <;> simp [Event.sampling] at he <;> refine ⟨rfl, ?_⟩ <;> intro b hb <;>
        simp [Scope.next] at hb <;>
        first
        | exact .inl hb.symm
        | exact .inl hb.2.symm
        | exact .inr hb.2.symm
    rw [Scope.run, Scope.run, ← hnx.1]
    cases hb : a.next c e with
    | none => rfl
    | some b => exact touch_run_chunk c c' l (fun e he => h e (List.mem_cons_of_mem _ he)) b (hnx.2 b hb)

theorem exec_shape {i : Instr} {s t : State} (h : exec i s = .next t) : Shape i s t := by
  by_cases hit : i = .touchRead
  · subst hit
    have anyC : ∀ {l sc} c, TouchTrace 1 l sc → Scope.touch.run c l = some sc := fun c hl =>
      (touch_run_chunk c 1 _ hl.2 _ (.inl rfl)).trans hl.1
    have valid : ∀ {t l}, exec .touchRead s = .next t → t.trace = s.trace ++ (.sel .touch :: l) →
        s.calValid = true := by
      intro t l he htr
      by_contra hv
      simp only [exec, execTouchRead, State.begin_calValid, hv, Host.Outcome.next.injEq] at he
      subst he
      simp at htr
    rcases exec_touch_cases s 1 with ⟨hcv, he⟩ | ⟨u, l, he, hl, h3, hr⟩ | ⟨u, l, he, hl, h3, hr⟩ |
      ⟨u, k, he, hn, hh⟩
    · cases he.symm.trans h
      exact .direct .errConfig _ rfl (by simp [State.usesBus, hcv]) (by simp [requestKinds]) (by simp) (by simp)
        (.inl rfl)
    · have hv := valid he ((finishTouch_onlyAnswers u).trace_eq.trans hr.trace_eq)
      cases he.symm.trans h
      exact .touchDone u l rfl hv rfl (fun c => anyC c hl) hl.2 h3 hr
    · have hv := valid he (show u.trace = _ from hr.trace_eq)
      cases he.symm.trans h
      exact .touchFail u l rfl hv rfl (fun c => anyC c hl) hl.2 h3 hr
    · cases he.symm.trans h
      refine .touchHung u k rfl rfl hn ?_
      rcases hh with ⟨a, b⟩ | ⟨l, sc, a, b, c, d⟩
      · exact .inl ⟨a, b⟩
      · exact .inr ⟨l, sc, a, fun c => anyC c b, b.2, c, d⟩
  · cases hp : s.displayPlan i with
    | none =>
      obtain ⟨k, u, he, h1, h2, h3, hu⟩ := exec_direct hp hit
      cases he.symm.trans h
      exact .direct k u rfl (by simp [State.usesBus, hit, hp]) h1 h2 h3 hu
    | some plan =>
      rcases exec_display_cases hp with he | ⟨pre, b, post, hpl, he⟩ | ⟨u, c, he, hr, hu⟩
      · cases he.symm.trans h; exact .dispOk plan hp rfl
      · cases he.symm.trans h; exact .dispFail pre b post (hpl ▸ hp) rfl
      · cases he.symm.trans h
        rcases hu with rfl | ⟨pre, e, post, hpl, rfl⟩ | rfl | ⟨pre, b, post, hpl, rfl⟩
        · exact .dispHung [] c plan hp (.inl rfl) hr rfl
        · exact .dispHung _ c plan hp (.inr ⟨pre, rfl, .inl ⟨_, hpl⟩⟩) hr rfl
        · exact .dispHung _ c plan hp (.inr ⟨plan, rfl, .inl ⟨[], by simp⟩⟩) hr rfl
        · exact .dispHung _ c plan hp (.inr ⟨_, rfl, .inr ⟨pre, b, post, hpl, rfl⟩⟩) hr rfl

/-- Every request adds events to the trace and a delivered prefix for each that failed, and selects no controller
but its own. -/
theorem exec_reach {i : Instr} {s t : State} (h : exec i s = .next t) :
    ∃ l, t.trace = s.trace ++ l ∧ CutsReach s t l ∧ (i ≠ .touchRead → .sel .touch ∉ l) ∧
      (i = .touchRead → .sel .disp ∉ l) := by
  have played : ∀ l, (∀ e ∈ l, e ≠ .sel .touch) → i ≠ .touchRead → ∀ t : State,
      t.trace = ((s.begin i).play l).trace → t.cutPrefixes = ((s.begin i).play l).cutPrefixes →
      ∃ l, t.trace = s.trace ++ l ∧ CutsReach s t l ∧ (i ≠ .touchRead → .sel .touch ∉ l) ∧
        (i = .touchRead → .sel .disp ∉ l) := by
    intro l hl hi t htr hcut
    refine ⟨l, by rw [htr]; simp, ?_, fun _ hm => hl _ hm rfl, fun hx => absurd hx hi⟩
    obtain ⟨cuts, h1, h2⟩ := CutsReach.play l (s.begin i)
    exact ⟨cuts, hcut.trans h1, h2⟩
  have inner : ∀ {l : List Event}, (∀ e ∈ l, e.inner = true) → ∀ e ∈ l, e ≠ .sel .touch := by
    intro l hl e he hx
    have := hl e he
    rw [hx] at this
    cases this
  have notTouch : ∀ {plan}, s.displayPlan i = some plan → i ≠ .touchRead := by
    intro plan hp hi
    subst hi
    cases hp
  have touched : ∀ {u l}, i = .touchRead → (∀ e ∈ l, e.sampling = true) →
      ∀ l', (l' = [] ∨ l' = .sel .touch :: l ∨ l' = .sel .touch :: l ++ [.desel .touch]) →
      TouchReach (s.begin .touchRead) u l' → t.trace = u.trace → t.cutPrefixes = u.cutPrefixes →
      ∃ l, t.trace = s.trace ++ l ∧ CutsReach s t l ∧ (i ≠ .touchRead → .sel .touch ∉ l) ∧
        (i = .touchRead → .sel .disp ∉ l) := by
    intro u l hi hl l' hl' hr htr hcut
    refine ⟨l', htr.trans hr.trace_eq, ?_, fun hx => absurd hi hx, fun _ hm => ?_⟩
    · obtain ⟨cuts, h1, h2⟩ := hr.cuts
      exact ⟨cuts, hcut.trans h1, h2⟩
    · have hno : Event.sel .disp ∉ l := fun hm => by cases hl _ hm
      rcases hl' with rfl | rfl | rfl <;> simp [hno] at hm
  rcases exec_shape h with ⟨k, u, rfl, _, _, _, _, hu⟩ | ⟨plan, hp, rfl⟩ | ⟨pre, b, post, hp, rfl⟩ |
    ⟨l, c, plan, hp, hl, _, rfl⟩ | ⟨u, l, hi, _, rfl, _, hl, _, hr⟩ | ⟨u, l, hi, _, rfl, _, hl, _, hr⟩ |
    ⟨u, c, hi, rfl, _, hr⟩
  · refine ⟨[], ?_, .same ?_, by simp, by simp⟩ <;>
      rcases hu with rfl | ⟨a, b, c, _, _, _, rfl⟩ | ⟨a, b, c, d, e, f, _, _, _, rfl⟩ | ⟨n, _, _, _, rfl⟩ <;> simp
  · refine played (.sel .disp :: plan ++ [.desel .disp]) ?_ (notTouch hp) _ ?_ ?_
    · have := inner (displayPlan_inner hp)
      simp at this ⊢
      rintro e (he | rfl)
      · exact this e he
      · simp
    all_goals unfold endDisplay; split <;> rfl
  · refine played (.sel .disp :: pre ++ [.txFail b, .desel .disp]) ?_ (notTouch hp) _ rfl rfl
    have := inner (displayPlan_inner hp)
    simp at this ⊢
    rintro e (he | rfl | rfl)
    · exact this e (.inl he)
    · simp
    · simp
  · refine played l ?_ (notTouch hp) _ rfl rfl
    have := inner (displayPlan_inner hp)
    rcases hl with rfl | ⟨m, rfl, ⟨r, rfl⟩ | ⟨pre, b, post, rfl, rfl⟩⟩
    · simp
    · simp at this ⊢
      exact fun e he => this e (.inl he)
    · simp at this ⊢
      rintro e (he | rfl)
      · exact this e (.inl he)
      · simp
  · exact touched hi hl _ (.inr (.inr rfl)) hr (finishTouch_onlyAnswers u).trace_eq
      (by rcases finishTouch_cases u with h | ⟨x, y, h⟩ <;> rw [h] <;> simp)
  · exact touched hi hl _ (.inr (.inr rfl)) hr rfl rfl
  · rcases hr with ⟨_, hr⟩ | ⟨l, _, _, _, hl, _, hr⟩
    · exact touched (l := []) hi (by simp) _ (.inl rfl) hr rfl rfl
    · exact touched hi hl _ (.inr (.inl rfl)) hr rfl rfl

end Sys2Proof.Machine
end

