-- ==== Sys2Proof/Tests/Slice0.lean ====
section
/-! SUPPORT. Tests. Expected results are the worked vectors of spec/95_test_vectors.md (named V..., P...) and words
written out from the tables of spec/30_encoding.md; none is the model's own answer. -/

namespace Sys2Proof.Tests

open Sys2Proof.Machine

/-! ### Small states -/

/-- The parameters of 95_test_vectors, "Conventions", with the font F2 of its section 2.5. -/
def vectorParams : Params :=
  { Params.least with
    chunkMax := 32768, cmdCaset := 0x2A, cmdRaset := 0x2B, cmdRamwr := 0x2C, cmdReadX := 0xD0, cmdReadY := 0x90,
    rowBits := 16, payloadMax := 65536, textMax := 255,
    fonts := [⟨2, 2, 3, [0x0000, 0x0000, 0x8000, 0x4000, 0xC000, 0x0000]⟩] }

/-- The reset state with these parameters, where every call returns and the draws are those listed, the first
transfers being as listed and the later ones good. -/
def start (p : Params) (transfers : List TransferResult) (received : List Byte) (presses : List Level) : State :=
  { State.reset with
    params := p
    env := { Env.reset with
      neverReturns := none
      transfers := ⟨transfers ++ List.replicate 80 .ok, 0⟩
      received := ⟨received, 0⟩
      presses := ⟨presses, 0⟩ } }

/-- A surface of w by h. -/
def onSurface (w h : U16) (s : State) : State := { s with surfW := w, surfH := h }

/-- The calibration of V30-9 and a sample count. -/
def calibrated (n : U16) (s : State) : State :=
  { s.setCalibration 1500 31000 3276 30110 240 320 with nSamples := n }

/-- The calls a step adds to an empty trace. -/
def traceOf (o : Host.Outcome State Fault Refusal) : List Event :=
  match o with
  | .next s => s.trace
  | _ => []

/-- The bytes of the only response. -/
def responseOf (o : Host.Outcome State Fault Refusal) : List (List Byte) :=
  match o with
  | .next s => s.responses.map Response.bytes
  | _ => []

/-- The next state, if there is one. -/
def nextOf (o : Host.Outcome State Fault Refusal) : Option State :=
  match o with
  | .next s => some s
  | _ => none

/-- Five bytes of a response. -/
def resp (a b c d e : Byte) : List (List Byte) := [[a, b, c, d, e]]

/-- The nine events "W-WIN" of 95_test_vectors. -/
def win (a b c d e f g h : Byte) : List Event :=
  [.mode .command, .tx [0x2A], .mode .data, .tx [a, b, c, d], .mode .command, .tx [0x2B], .mode .data,
   .tx [e, f, g, h], .mode .command, .tx [0x2C]]

/-- The two events "PX" of 95_test_vectors. -/
def px (hi lo : Byte) : List Event := [.mode .data, .tx [hi, lo]]

/-! ### Well-formedness -/

theorem test_wellFormed_refuses_long_payload :
    (Instr.frame 0x2C [1, 2, 3]).wellFormed { vectorParams with payloadMax := 2 } = false := by decide

theorem test_wellFormed_refuses_long_text :
    (Instr.writeString 0 0 0 0 0 [0x41, 0x42]).wellFormed { vectorParams with textMax := 1 } = false := by decide

/-- 00_scope R6: a legal set of parameters, and the value R6 gives for AXIS_FIRST. -/
theorem test_params : vectorParams.legal = true ∧ State.reset.params.axisFirst = .x := ⟨by decide, rfl⟩

/-! ### Decoding, one word or more of every request (30_encoding R80; V30-*) -/

theorem test_decode_cfgSurface :
    decode vectorParams [0x01, 0x00, 0xF0, 0x01, 0x40, 0x00] = .ok (.cfgSurface 240 320 0) := by decide
theorem test_decode_cfgCal :
    decode vectorParams [0x02, 0x05, 0xDC, 0x79, 0x18, 0x0C, 0xCC, 0x75, 0x9E, 0x00, 0xF0, 0x01, 0x40] =
      .ok (.cfgCal 1500 31000 3276 30110 240 320) := by decide
theorem test_decode_cfgSamples : decode vectorParams [0x03, 0x00, 0x10] = .ok (.cfgSamples 16) := by decide
theorem test_decode_init : decode vectorParams [0x10] = .ok .init := by decide
theorem test_decode_frame :
    decode vectorParams [0x20, 0x36, 0, 0, 0, 5, 0x11, 0x22, 0x33, 0x44, 0x55] =
      .ok (.frame 0x36 [0x11, 0x22, 0x33, 0x44, 0x55]) := by decide
theorem test_decode_fillRect :
    decode vectorParams [0x30, 0x00, 0xEE, 0x01, 0x3E, 0x00, 0x05, 0x00, 0x05, 0xF8, 0x00] =
      .ok (.fillRect 238 318 5 5 0xF800) := by decide
theorem test_decode_fillScreen : decode vectorParams [0x31, 0x00, 0x1F] = .ok (.fillScreen 0x001F) := by decide
theorem test_decode_clear : decode vectorParams [0x32] = .ok .clear := by decide
theorem test_decode_writeString :
    decode vectorParams [0x40, 0, 1, 0, 0, 0, 0xFF, 0xFF, 0, 0, 0, 5, 0x21, 0x22, 0x21, 0x21, 0x22] =
      .ok (.writeString 1 0 0 0xFFFF 0x0000 [0x21, 0x22, 0x21, 0x21, 0x22]) := by decide
theorem test_decode_touchRead : decode vectorParams [0x50] = .ok .touchRead := by decide

theorem test_decode_illegal :
    decode vectorParams [] = .error .empty ∧
    decode vectorParams [0x00] = .error .reservedOpcode ∧
    decode vectorParams [0xFF, 0, 0] = .error .reservedOpcode ∧
    decode vectorParams [0x30, 0, 0, 0, 0, 0, 1, 0, 1, 0xF8] = .error .wrongLength ∧
    decode vectorParams [0x10, 0x00] = .error .wrongLength ∧
    decode vectorParams [0x20, 0x2C, 0, 0, 0, 2, 0xAA] = .error .wrongLength ∧
    decode vectorParams [0x20, 0x2C, 0, 1, 0, 1] = .error .overLimit := by decide

theorem test_table_words_decode :
    decodeTableWord 8 0x01 = some (.cfgSurface 0 0 0) ∧ decodeTableWord 8 0x20 = some (.frame 0 []) ∧
    decodeTableWord 8 0x40 = some (.writeString 0 0 0 0 0 []) ∧ decodeTableWord 8 0x50 = some .touchRead := by
  decide

theorem test_table_word_runs_first :
    step (State.reset.withFetchWord 8 0x20) = exec (.frame 0 []) State.reset := rfl

/-! ### Configuration (V45-*) -/

theorem test_cfgSurface_locked :
    responseOf (exec (.cfgSurface 320 240 0x60) { start vectorParams [] [] [] with initDone := true }) =
      resp 0x83 0 0 0 0 := by decide

theorem test_cfgSurface_writes :
    (nextOf (exec (.cfgSurface 240 320 0x60) (start vectorParams [] [] []))).map
      (fun t => (t.surfW, t.surfH, t.rotMask)) = some (240, 320, 0x60) := by decide

theorem test_cfgCal_degenerate :
    responseOf (exec (.cfgCal 3000 2000 0 1 240 320) (start vectorParams [] [] [])) = resp 0x81 0 0 0 0 ∧
    responseOf (exec (.cfgCal 0 1 5 5 240 320) (start vectorParams [] [] [])) = resp 0x81 0 0 0 0 := by decide

theorem test_cfgSamples_zero :
    (nextOf (exec (.cfgSamples 0) (start vectorParams [] [] []))).map (fun t => (t.nSamples, t.status)) =
      some (16, 0x81) := by decide

/-! ### Framer (V40-*) -/

/-- V40-2, and the sizes of the chunks of V40-1. -/
theorem test_frame_chunked :
    traceOf (exec (.frame 0x36 [0x11, 0x22, 0x33, 0x44, 0x55]) (start { vectorParams with chunkMax := 2 } [] [] [])) =
      [.sel .disp, .mode .command, .tx [0x36], .mode .data, .tx [0x11, 0x22], .tx [0x33, 0x44], .tx [0x55],
       .desel .disp] ∧
    (chunks 4 (List.replicate 9 0)).map List.length = [4, 4, 1] ∧
    (chunks 4 (List.replicate 8 0)).map List.length = [4, 4] ∧
    (chunks 1 (List.replicate 5 0)).map List.length = [1, 1, 1, 1, 1] ∧ chunks 4 [] = [] := by decide

/-- V40-4, and the prefix drawn for the failed transfer (20_memory R65). -/
theorem test_frame_third_transmit_fails :
    (nextOf (exec (.frame 0x36 [0x11, 0x22, 0x33, 0x44, 0x55])
      (start { vectorParams with chunkMax := 2 } [.ok, .ok, .fail 1] [] []))).map
      (fun t => (t.trace, t.status, t.cutPrefixes)) =
    some ([.sel .disp, .mode .command, .tx [0x36], .mode .data, .tx [0x11, 0x22], .txFail [0x33, 0x44],
       .desel .disp], 0x80, [[0x33]]) := by decide

/-! ### Address window (V41-*) -/

/-- V41-0. -/
theorem test_color565 :
    color565 0xF8 0xFC 0xF8 = 0xFFFF ∧ color565 7 3 7 = 0 ∧ color565 0x12 0x34 0x56 = 0x11AA ∧
    color565 8 4 8 = 0x0821 ∧ color565 0 255 0 = 0x07E0 := by decide

/-- V41-1. -/
theorem test_fillRect_clipped :
    traceOf (exec (.fillRect 238 318 5 5 0xF800) (onSurface 240 320 (start vectorParams [] [] []))) =
      [.sel .disp] ++ win 0 0xEE 0 0xEF 1 0x3E 1 0x3F ++ px 0xF8 0 ++ px 0xF8 0 ++ px 0xF8 0 ++ px 0xF8 0 ++
        [.desel .disp] := by decide

/-- V41-9: the 7th transmit fails. -/
theorem test_fillRect_seventh_transmit_fails :
    traceOf (exec (.fillRect 1 0 5 5 0xF800)
      (onSurface 3 2 (start vectorParams [.ok, .ok, .ok, .ok, .ok, .ok, .fail 0] [] []))) =
      [.sel .disp] ++ win 0 1 0 2 0 0 0 1 ++ px 0xF8 0 ++ [.mode .data, .txFail [0xF8, 0], .desel .disp] := by decide

/-- V41-7. -/
theorem test_fillScreen :
    traceOf (exec (.fillScreen 0x001F) (onSurface 2 2 (start vectorParams [] [] []))) =
      [.sel .disp] ++ win 0 0 0 1 0 0 0 1 ++ px 0 0x1F ++ px 0 0x1F ++ px 0 0x1F ++ px 0 0x1F ++ [.desel .disp] := by
  decide

/-- V41-8, with another default colour. -/
theorem test_clear :
    traceOf (exec .clear (onSurface 1 1 (start { vectorParams with defaultColor := 0x1234 } [] [] []))) =
      [.sel .disp] ++ win 0 0 0 0 0 0 0 0 ++ px 0x12 0x34 ++ [.desel .disp] := by decide

/-! ### Init sequencer (V42-*) -/

/-- V42-1. -/
theorem test_init_replays :
    (nextOf (exec .init (start { vectorParams with rstLowMs := 5, initTable := [⟨0x01, [], 150⟩, ⟨0x3A, [0x55], 0⟩] }
      [] [] []))).map (fun t => (t.trace, t.initDone, t.rst, t.status)) =
      some ([.sel .disp, .rst .low, .delay 5, .rst .high, .mode .command, .tx [0x01], .delay 150, .mode .command,
        .tx [0x3A], .mode .data, .tx [0x55], .desel .disp], true, .high, 0x00) := by decide

/-- V42-3. -/
theorem test_init_locked :
    (nextOf (exec .init { start vectorParams [] [] [] with initDone := true })).map (fun t => (t.trace, t.status)) =
      some ([], 0x83) := by decide

/-! ### Glyph renderer (V43-*) -/

/-- V43-8: ends exactly at the edges, the space is dropped. -/
theorem test_writeString_edge :
    traceOf (exec (.writeString 3 2 0 0x1234 0x5678 [0x22, 0x20]) (onSurface 5 4 (start vectorParams [] [] []))) =
      [.sel .disp] ++ win 0 3 0 4 0 2 0 3 ++ px 0x12 0x34 ++ px 0x12 0x34 ++ px 0x56 0x78 ++ px 0x56 0x78 ++
        [.desel .disp] := by decide

/-- V43-1: where the five characters go; the fifth is dropped. -/
theorem test_layout_wraps_and_drops :
    layout 5 4 2 2 [0x21, 0x22, 0x21, 0x21, 0x22] 1 0 =
      [⟨1, 0, 0x21⟩, ⟨3, 0, 0x22⟩, ⟨0, 2, 0x21⟩, ⟨2, 2, 0x21⟩] := by decide

/-! ### Touch (V44-*) -/

/-- V44-3: two samples, then released; V44-7: a failure at the fourth transfer; V44-10: Y read first. -/
theorem test_touch_traces :
    (nextOf (exec .touchRead (calibrated 4 (start vectorParams [] [0x10, 0, 0x20, 0, 0x10, 0, 0x20, 0]
      [.low, .low, .high])))).map (fun t => (t.trace, t.status)) =
      some ([.sel .touch, .press .low, .tx [0xD0], .txRx [0, 0] [0x10, 0], .tx [0x90], .txRx [0, 0] [0x20, 0],
        .press .low, .tx [0xD0], .txRx [0, 0] [0x10, 0], .tx [0x90], .txRx [0, 0] [0x20, 0], .press .high,
        .desel .touch], 0x02) ∧
    traceOf (exec .touchRead (calibrated 2 (start vectorParams [.ok, .ok, .ok, .fail 0] [0x01, 0x02] [.low]))) =
      [.sel .touch, .press .low, .tx [0xD0], .txRx [0, 0] [0x01, 0x02], .tx [0x90], .txRxFail [0, 0], .desel .touch] ∧
    traceOf (exec .touchRead (calibrated 1 (start { vectorParams with axisFirst := .y } [] [0x41, 0x35, 0x3F, 0x7A]
      [.low]))) =
      [.sel .touch, .press .low, .tx [0x90], .txRx [0, 0] [0x41, 0x35], .tx [0xD0], .txRx [0, 0] [0x3F, 0x7A],
       .desel .touch] := by decide

/-- V44-4, V44-5 (the top of the range, where `y_out` is -1), and rows of the map alone from V44-8. -/
theorem test_touch_results :
    responseOf (exec .touchRead (calibrated 2 (start vectorParams [] [0x3F, 0x7A, 0x41, 0x35, 0x3F, 0x7B, 0x41, 0x36]
      [.low, .low]))) = resp 0x01 0 0x78 0 0x9F ∧
    (nextOf (exec .touchRead (calibrated 1 (start vectorParams [] [0xFF, 0xFF, 0xFF, 0xFF] [.low])))).map
      (fun t => (t.resX, t.resY, t.yExact)) = some (240, 0xFFFF, some (-1)) ∧
    mapAxis 1622 1500 31000 240 = 0 ∧ mapAxis 1623 1500 31000 240 = 1 ∧ mapAxis 30999 1500 31000 240 = 239 ∧
    mapAxis 65535 1500 31000 240 = 240 ∧ mapAxis 3359 3276 30110 320 = 0 ∧ mapAxis 3360 3276 30110 320 = 1 ∧
    mapAxis 16777 3276 30110 320 = 161 := by decide

/-! ### Byte streams (20_memory R52, R65) -/

/-- V40-4 with one byte of the failed transfer delivered, and the one sample of V44-7. -/
theorem test_streams :
    (nextOf (exec (.frame 0x36 [0x11, 0x22, 0x33, 0x44, 0x55])
      (start { vectorParams with chunkMax := 2 } [.ok, .ok, .fail 1] [] []))).map
      (fun t => (t.displayStream, t.touchStream)) =
    some ([(.command, 0x36), (.data, 0x11), (.data, 0x22), (.data, 0x33)], []) ∧
    (nextOf (exec .touchRead (calibrated 2 (start vectorParams [.ok, .ok, .ok, .fail 0] [0x01, 0x02] [.low])))).map
      (fun t => (t.displayStream, t.touchStream)) =
    some ([], [.received 0xD0, .received 0, .received 0, .answered 0x01, .answered 0x02, .received 0x90]) := by decide

/-! ### Steps -/

/-- 60_exceptions R240: the fourth call never returns; the block stays BUSY with the display selected. -/
theorem test_hang :
    (nextOf (exec .init { start vectorParams [] [] [] with
        env.neverReturns := some 3 })).map (fun t => (t.seq, t.csDisp, t.responses)) =
      some (.busy .init ⟨3, some (.deassertSelect .disp)⟩, .asserted, []) := by decide

/-- V30-2 as a step, and a step with no request. -/
theorem test_step_illegal_and_wait :
    responseOf (step { start vectorParams [] [] [] with env.requests := [[0x00]] }) = resp 0x84 0 0 0 0 ∧
    (nextOf (step (start vectorParams [] [] []))).map (fun t => (t.trace, t.responses)) = some ([], []) := by decide

/-- 20_memory R58: the wire view of V40-2 and V40-3 is the same. -/
theorem test_wireView_hides_chunks :
    wireView ⟨.asserted, .deasserted, .data⟩ (wireFrame 2 0x36 [1, 2, 3]) =
    wireView ⟨.asserted, .deasserted, .data⟩ (wireFrame 9 0x36 [1, 2, 3]) := by decide

/-- 30_encoding R87. -/
theorem test_spell : (Instr.cfgSurface 240 320 0).spell = "CFG_SURFACE 240, 320, 0" ∧
    (Instr.frame 0x36 [0x11, 0xAB]).spell = "FRAME 54, [11 AB]" := by decide

/-! ### Witnesses: for each obligation with premises, states and operands that meet all of them together

A witness `witness_X` is for `Obligations.X`. An obligation of several clauses has a part for each clause, at the
ends of its range. -/

/-- Every call returns and the first 80 transfers succeed. -/
def good : State := start vectorParams [] [] []

theorem start_returns (p : Params) (a : List TransferResult) (b : List Byte) (c : List Level) :
    (start p a b c).AllCallsReturn := rfl

theorem start_transfers (p : Params) (b : List Byte) (c : List Level) (n : Nat) (h : n ≤ 80) :
    (start p [] b c).TransfersOk n := by
  intro k hk
  have : (List.replicate 80 TransferResult.ok)[k]? = some .ok := by
    rw [List.getElem?_replicate, if_pos (by omega)]
  show ((([] : List TransferResult) ++ List.replicate 80 .ok)[k]?).getD _ = _
  rw [List.nil_append, this]
  rfl

theorem onSurface_transfers (w h : U16) (n : Nat) (hn : n ≤ 80) : (onSurface w h good).TransfersOk n :=
  start_transfers vectorParams [] [] n hn

theorem calibrated_transfers (c : U16) (b : List Byte) (l : List Level) (n : Nat) (hn : n ≤ 80) :
    (calibrated c (start vectorParams [] b l)).TransfersOk n :=
  start_transfers vectorParams b l n hn

/-- Limits of two bytes of payload and one character of text. -/
def smallLimits : Params := { vectorParams with payloadMax := 2, textMax := 1 }

theorem witness_DecodeOfEncodeIsTheRequest :
    smallLimits.legal = true ∧ (Instr.frame 0x36 [1, 2]).wellFormed smallLimits = true ∧
    (Instr.writeString 65535 0 255 0 65535 [0x41]).wellFormed smallLimits = true := by decide

theorem witness_DecodedBytesAreTheEncoding : decode smallLimits [0x20, 0x36, 0, 0, 0, 2, 1, 2] =
    .ok (.frame 0x36 [1, 2]) := by decide

/-- One for each of the five causes. -/
theorem witness_IllegalBytesAreAnsweredErrIllegal (bytes : List Byte)
    (h : bytes ∈ ([[], [0xFF], [0x10, 0x00], [0x20, 0x36, 0, 0, 0, 3, 1, 2, 3],
      [0x40, 0, 0, 0, 0, 0, 0, 0, 0, 0, 0, 2, 0x41, 0x41]] : List (List Byte))) :
    let s : State := { start smallLimits [] [] [] with env.requests := [bytes] }
    s.seq = .idle ∧ s.env.requests = [bytes] ∧
    (bytes = [] ∨
     bytes.headD 0 ∉ ([0x01, 0x02, 0x03, 0x10, 0x20, 0x30, 0x31, 0x32, 0x40, 0x50] : List Byte) ∨
     bytes.length ≠ statedLength bytes ∨
     (bytes.headD 0 = 0x20 ∧ s.params.payloadMax < statedLength bytes - 6) ∨
     (bytes.headD 0 = 0x40 ∧ s.params.textMax < statedLength bytes - 12)) := by
  refine ⟨rfl, rfl, ?_⟩
  revert bytes
  decide

theorem witness_OtherBytesDecode (bytes : List Byte)
    (h : bytes ∈ ([[0x10], [0x20, 0x36, 0, 0, 0, 2, 1, 2], [0x40, 0, 0, 0, 0, 0, 0, 0, 0, 0, 0, 1, 0x41]] :
      List (List Byte))) :
    bytes ≠ [] ∧ bytes.headD 0 ∈ ([0x01, 0x02, 0x03, 0x10, 0x20, 0x30, 0x31, 0x32, 0x40, 0x50] : List Byte) ∧
    bytes.length = statedLength bytes ∧ (bytes.headD 0 = 0x20 → statedLength bytes - 6 ≤ smallLimits.payloadMax) ∧
    (bytes.headD 0 = 0x40 → statedLength bytes - 12 ≤ smallLimits.textMax) := by
  revert bytes
  decide

theorem witness_WrittenOutWordsDecode : 2 ≤ smallLimits.payloadMax ∧ 1 ≤ smallLimits.textMax := by decide

theorem witness_StepRunsTheDecodedRequest :
    let s : State := { good with env.requests := [[0x10], [0x32]] }
    s.seq = .idle ∧ s.env.requests = [0x10] :: [[0x32]] ∧ decode s.params [0x10] = .ok .init := ⟨rfl, rfl, rfl⟩

theorem witness_StepWaitsWithoutRequest : good.seq = .idle ∧ good.env.requests = [] := ⟨rfl, rfl⟩

theorem witness_FetchWordRunsNext :
    good.seq = .idle ∧ decode good.params (tableRequest 8 0x40) = .ok (.writeString 0 0 0 0 0 []) :=
  ⟨rfl, by decide⟩

theorem witness_EveryRequestEnds : good.AllCallsReturn := rfl

/-- FRAME without payload makes four calls; the fifth would not return. -/
theorem witness_NoRequestOutlivesAHang :
    let s : State := { good with env.neverReturns := some 4 }
    s.env.neverReturns = some (s.env.calls + 4) ∧
    (nextOf (exec (.frame 0x36 []) s)).map (fun t => (t.seq, t.trace.length)) = some (.idle, 4) :=
  ⟨rfl, by decide⟩

/-- The first call of the display side, and the second of the touch side, never returns. -/
theorem witness_HangHoldsTheSelectLine :
    (nextOf (exec .init { good with env.neverReturns := some 0 })).map (fun t => t.seq ≠ .idle) = some True ∧
    (nextOf (exec .touchRead { calibrated 1 good with env.neverReturns := some 1 })).map (fun t => t.seq) =
      some (.busy .touchRead ⟨1, some .readPress⟩) := by
  refine ⟨?_, by decide⟩
  show some (_ ≠ _) = some True
  simp only [ne_eq, Option.some.injEq, eq_iff_iff, iff_true]
  decide

/-- Both clauses. -/
theorem witness_CfgSurfaceWritesTheSurface :
    ({ good with initDone := true } : State).initDone = true ∧ good.initDone = false := ⟨rfl, rfl⟩

/-- Both clauses, at `min = max` and at `min + 1 = max`. -/
theorem witness_CfgCalWritesAllOrNothing :
    ((5 : U16).toNat ≥ (5 : U16).toNat ∨ (0 : U16).toNat ≥ (1 : U16).toNat) ∧
    ((0 : U16).toNat < (1 : U16).toNat ∧ (65534 : U16).toNat < (65535 : U16).toNat) := by decide

/-- Both clauses. -/
theorem witness_CfgSamplesWritesTheCount : (0 : U16) = 0 ∧ (1 : U16) ≠ 0 ∧ (65535 : U16) ≠ 0 := by decide

theorem witness_ConfigRequestsStayOffTheBus :
    (∃ w h rot, Instr.cfgSurface 1 2 3 = .cfgSurface w h rot) ∧
    (∃ a b c d e f, Instr.cfgCal 0 1 0 1 2 3 = .cfgCal a b c d e f) ∧ (∃ n, Instr.cfgSamples 0 = .cfgSamples n) :=
  ⟨⟨1, 2, 3, rfl⟩, ⟨0, 1, 0, 1, 2, 3, rfl⟩, ⟨0, rfl⟩⟩

/-- Chunks of 2 and 3 bytes. -/
def chunked (c : Nat) : State := start { vectorParams with chunkMax := c } [] [] []

theorem witness_SendDataSplitsIntoChunks :
    1 ≤ (chunked 2).params.chunkMax ∧ (chunked 2).AllCallsReturn ∧
    (chunked 2).TransfersOk (ceilDiv [0x11, 0x22, (0x33 : Byte)].length (chunked 2).params.chunkMax) :=
  ⟨by decide, rfl, start_transfers _ _ _ _ (by decide)⟩

theorem witness_FrameSendsCommandAndPayload :
    (chunked 2).AllCallsReturn ∧
    (chunked 2).TransfersOk (1 + ceilDiv [0x11, 0x22, (0x33 : Byte)].length (chunked 2).params.chunkMax) ∧
    (chunked 2).TransfersOk (1 + ceilDiv ([] : List Byte).length (chunked 2).params.chunkMax) :=
  ⟨rfl, start_transfers _ _ _ _ (by decide), start_transfers _ _ _ _ (by decide)⟩

/-- The first transmit, and the last of INIT. -/
theorem witness_FirstFailedTransmitEndsTheRequest :
    (let s := start vectorParams [.fail 0] [] []
     let plan := wireFrame s.params.chunkMax 0x36 [1]
     s.displayPlan (.frame 0x36 [1]) = some plan ∧ s.AllCallsReturn ∧ 0 < txCount plan ∧ s.TransfersOk 0 ∧
       s.transferAt 0 = .fail 0) ∧
    (let s := start { vectorParams with initTable := [⟨0x11, [], 5⟩, ⟨0x29, [], 0⟩] } [.ok, .fail 1] [] []
     let plan := wireInit s.params
     s.displayPlan .init = some plan ∧ s.AllCallsReturn ∧ 1 < txCount plan ∧ s.TransfersOk 1 ∧
       s.transferAt 1 = .fail 1) :=
  ⟨⟨rfl, rfl, by decide, show ∀ k, k < 0 → _ by decide, rfl⟩,
   ⟨rfl, rfl, by decide, show ∀ k, k < 1 → _ by decide, rfl⟩⟩

theorem witness_WireViewHidesChunks :
    let p : List Byte := [0x11, 0x22, 0x33]
    1 ≤ (chunked 2).params.chunkMax ∧ 1 ≤ (chunked 1).params.chunkMax ∧ (chunked 1).lines = (chunked 2).lines ∧
    (chunked 2).AllCallsReturn ∧ (chunked 1).AllCallsReturn ∧
    (chunked 2).TransfersOk (ceilDiv p.length (chunked 2).params.chunkMax +
      ceilDiv p.length (chunked 2).params.chunkMax) ∧
    (chunked 1).TransfersOk (ceilDiv p.length (chunked 1).params.chunkMax) :=
  ⟨by decide, by decide, rfl, rfl, rfl, start_transfers _ _ _ _ (by decide), start_transfers _ _ _ _ (by decide)⟩

theorem witness_ListenerCannotSeeTheChunkLimit :
    let i := Instr.frame 0x36 [0x11, 0x22, 0x33]
    let plan := wireFrame 2 0x36 [0x11, 0x22, 0x33]
    let plan' := wireFrame 1 0x36 [0x11, 0x22, 0x33]
    (chunked 2).displayPlan i = some plan ∧ 1 ≤ (chunked 2).params.chunkMax ∧ 1 ≤ 1 ∧
    ({ chunked 2 with params.chunkMax := 1 } : State).displayPlan i = some plan' ∧ (chunked 2).AllCallsReturn ∧
    (chunked 2).TransfersOk (txCount plan) ∧ (chunked 2).TransfersOk (txCount plan') :=
  ⟨rfl, by decide, by decide, rfl, rfl, start_transfers _ _ _ _ (by decide), start_transfers _ _ _ _ (by decide)⟩

/-- A display request and a touch read. -/
theorem witness_EachRequestReachesOneController :
    let s := calibrated 1 (start vectorParams [] [] [.high])
    s.csDisp = .deasserted ∧ s.csTouch = .deasserted ∧ Instr.clear ≠ .touchRead ∧
    (nextOf (exec .clear s)).isSome ∧ (nextOf (exec .touchRead s)).isSome :=
  ⟨rfl, rfl, by decide, rfl, rfl⟩

/-- A FRAME that ends OK, and one whose last transmit fails after a byte. -/
theorem witness_FrameReachesTheDisplayInOrder :
    1 ≤ (chunked 2).params.chunkMax ∧ (chunked 2).csDisp = .deasserted ∧
    (nextOf (exec (.frame 0x36 [1, 2, 3]) (chunked 2))).map (fun t => (t.seq, t.status)) = some (.idle, 0x00) ∧
    (nextOf (exec (.frame 0x36 [1, 2, 3]) (start { vectorParams with chunkMax := 2 } [.ok, .fail 1] [] []))).map
      (fun t => (t.seq, t.status)) = some (.idle, 0x80) :=
  ⟨by decide, rfl, by decide, by decide⟩

theorem witness_TouchReadReachesTheTouchController :
    let s := calibrated 1 (start vectorParams [] [0x3F, 0x7A, 0x41, 0x35] [.low])
    s.calValid = true ∧ s.AllCallsReturn ∧ s.PressedFor s.nSamples.toNat ∧ s.TransfersOk (4 * s.nSamples.toNat) :=
  ⟨rfl, rfl, show ∀ k, k < 1 → _ by decide, calibrated_transfers _ _ _ _ (by decide)⟩

/-- A clipped rectangle, and the last pixel of the surface. -/
theorem witness_FillRectDrawsTheClippedRectangle :
    let s := onSurface 240 320 good
    (238 : U16).toNat < s.surfW.toNat ∧ (319 : U16).toNat < s.surfH.toNat ∧ (5 : U16) ≠ 0 ∧ (1 : U16) ≠ 0 ∧
    s.AllCallsReturn ∧ s.TransfersOk (3 + 2 * ceilDiv 4 s.params.chunkMax + 2 * 1 * ceilDiv 2 s.params.chunkMax) :=
  ⟨by decide, by decide, by decide, by decide, rfl, onSurface_transfers _ _ _ (by decide)⟩

/-- One for each of the four causes. -/
theorem witness_FillRectOutsideIsANoOp :
    let s := onSurface 240 320 good
    s.surfW.toNat ≤ (240 : U16).toNat ∧ s.surfH.toNat ≤ (320 : U16).toNat ∧ (0 : U16) = 0 := by
  refine ⟨?_, ?_, ?_⟩ <;> decide

/-- Both requests; a surface with pixels, and one of height 0. -/
theorem witness_FillScreenAndClearDrawTheSurface :
    (let s := onSurface 2 2 good
     s.AllCallsReturn ∧ s.surfW ≠ 0 ∧ s.surfH ≠ 0 ∧ s.TransfersOk (3 + 2 * ceilDiv 4 s.params.chunkMax +
       s.surfW.toNat * s.surfH.toNat * ceilDiv 2 s.params.chunkMax)) ∧
    (let s := onSurface 2 0 good
     s.AllCallsReturn ∧ s.surfH = 0 ∧ s.TransfersOk (3 + 2 * ceilDiv 4 s.params.chunkMax +
       s.surfW.toNat * s.surfH.toNat * ceilDiv 2 s.params.chunkMax)) ∧
    (Instr.clear = .clear ∧ (0 : U16) = good.params.defaultColor) :=
  ⟨⟨rfl, by decide, by decide, onSurface_transfers _ _ _ (by decide)⟩,
   ⟨rfl, rfl, onSurface_transfers _ _ _ (by decide)⟩, rfl, by decide⟩

theorem witness_FillScreenIsFillRectOfTheSurface : (onSurface 2 2 good).AllCallsReturn := rfl

theorem witness_CellEventCounts : 4 ≤ { vectorParams with chunkMax := 4 }.chunkMax := by decide

/-- A table whose last entry has a payload, one whose last entry has none, and an empty one. -/
theorem witness_InitReplaysTheTable :
    (let s := start { vectorParams with rstLowMs := 5, initTable := [⟨0x01, [], 150⟩, ⟨0x3A, [0x55], 0⟩] } [] [] []
     s.initDone = false ∧ s.AllCallsReturn ∧ s.TransfersOk (txCount (wireInit s.params)) ∧
       s.params.initTable.getLast? = some ⟨0x3A, [0x55], 0⟩) ∧
    (let s := start { vectorParams with initTable := [⟨0x01, [], 150⟩] } [] [] []
     s.initDone = false ∧ s.AllCallsReturn ∧ s.TransfersOk (txCount (wireInit s.params)) ∧
       s.params.initTable.getLast? = some ⟨0x01, [], 150⟩) ∧
    (good.initDone = false ∧ good.AllCallsReturn ∧ good.TransfersOk (txCount (wireInit good.params)) ∧
      good.params.initTable = []) :=
  ⟨⟨rfl, rfl, start_transfers _ _ _ _ (by decide), rfl⟩, ⟨rfl, rfl, start_transfers _ _ _ _ (by decide), rfl⟩,
   rfl, rfl, start_transfers _ _ _ _ (by decide), rfl⟩

theorem witness_SecondInitIsLocked : ({ good with initDone := true } : State).initDone = true := rfl

/-- For each clause a next state: of FRAME, and of INIT from two states that differ in the surface. -/
theorem witness_OnlyInitDrivesResetAndDelays :
    (Instr.frame 0x36 [] ≠ .init ∧ (nextOf (exec (.frame 0x36 []) good)).isSome) ∧
    (let s' : State := { onSurface 7 9 good with env.calls := 3 }
     s'.params = good.params ∧ s'.initDone = good.initDone ∧
       SameDraws good s' (txCount (wireInit good.params)) 0 0 ((wireInit good.params).length + 2) ∧
       (nextOf (exec .init good)).isSome ∧ (nextOf (exec .init s')).isSome) :=
  ⟨⟨by decide, rfl⟩, rfl, rfl, ⟨fun _ _ => rfl, fun _ _ => rfl, fun _ _ => rfl, fun _ _ => ⟨nofun, nofun⟩⟩,
   rfl, rfl⟩

/-- The last line and its last column: everything is drawn; and a start past the bottom-right cell, where nothing
is. -/
theorem witness_WriteStringDrawsTheLaidOutText :
    let s := onSurface 4 4 good
    let f : Font := ⟨2, 2, 3, [0x0000, 0x0000, 0x8000, 0x4000, 0xC000, 0x0000]⟩
    s.params.fonts[(0 : Byte).toNat]? = some f ∧ f.gw ≤ s.surfW.toNat ∧ f.gh ≤ s.surfH.toNat ∧
    (2 : U16).toNat + f.gh ≤ s.surfH.toNat ∧ (∀ ch ∈ [(0x20 : Byte), 0x22], 32 ≤ ch.toNat ∧ ch.toNat < 32 + f.count) ∧
    s.AllCallsReturn ∧
    s.TransfersOk ((layout s.surfW.toNat s.surfH.toNat f.gw f.gh [0x20, 0x22] 0 2).length *
      (3 + 2 * ceilDiv 4 s.params.chunkMax + f.gw * f.gh * ceilDiv 2 s.params.chunkMax)) ∧
    layout s.surfW.toNat s.surfH.toNat f.gw f.gh [0x20, 0x22] 3 2 = [] ∧
    layout s.surfW.toNat s.surfH.toNat f.gw f.gh [0x20, 0x22] 0 2 ≠ [] ∧ 1 ≤ f.gw ∧ 1 ≤ f.gh :=
  ⟨rfl, by decide, by decide, by decide, by decide, rfl, onSurface_transfers _ _ _ (by decide), by decide, by decide,
   by decide, by decide⟩

/-- One for each cause, a character just below and one just above the font among them. -/
theorem witness_WriteStringRefusals :
    let f : Font := ⟨2, 2, 3, [0x0000, 0x0000, 0x8000, 0x4000, 0xC000, 0x0000]⟩
    let s := onSurface 4 4 good
    s.params.fonts.length ≤ (1 : Byte).toNat ∧ s.params.fonts[(0 : Byte).toNat]? = some f ∧
    (onSurface 1 4 good).surfW.toNat < f.gw ∧ (onSurface 4 1 good).surfH.toNat < f.gh ∧
    s.surfH.toNat < (3 : U16).toNat + f.gh ∧ (0x1F : Byte).toNat < 32 ∧ 32 + f.count ≤ (0x23 : Byte).toNat := by
  refine ⟨?_, rfl, ?_⟩ <;> decide

theorem witness_LayoutPlacesEachCharacter :
    1 ≤ 2 ∧ 1 ≤ 2 ∧ 2 ≤ 4 ∧ 2 + 2 ≤ 4 ∧ (layout 4 4 2 2 [0x21, 0x21] 0 2)[1]? = some ⟨2, 2, 0x21⟩ := by decide

theorem witness_GlyphCellIsRowMajor :
    let f : Font := ⟨2, 2, 3, [0x0000, 0x0000, 0x8000, 0x4000, 0xC000, 0x0000]⟩
    1 < f.gh ∧ 1 < f.gw ∧ f.rows[(33 - 32) * f.gh + 1]? = some 0x4000 := by decide

theorem witness_GlyphLookupIsInTheTable :
    let f : Font := ⟨2, 2, 3, [0x0000, 0x0000, 0x8000, 0x4000, 0xC000, 0x0000]⟩
    vectorParams.legal = true ∧ vectorParams.fonts[0]? = some f ∧ 32 ≤ 34 ∧ 34 < 32 + f.count ∧ 1 < f.gh := by
  decide

theorem witness_TouchReadNeedsACalibration : good.calValid = false := rfl

/-- One sample, and two. -/
theorem witness_TouchReadReportsTheMappedAverage (n : U16) (h : n ∈ ([1, 2] : List U16)) :
    let s := calibrated n (start vectorParams [] [0x3F, 0x7A, 0x41, 0x35, 0x3F, 0x7B, 0x41, 0x36] [.low, .low])
    s.calValid = true ∧ s.calMinX.toNat < s.calMaxX.toNat ∧ s.calMinY.toNat < s.calMaxY.toNat ∧
    s.nSamples ≠ 0 ∧ s.AllCallsReturn ∧ s.PressedFor s.nSamples.toNat ∧ s.TransfersOk (4 * s.nSamples.toNat) := by
  rcases List.mem_pair.1 h with rfl | rfl
  · exact ⟨rfl, by decide, by decide, by decide, rfl, show ∀ k, k < 1 → _ by decide,
      calibrated_transfers _ _ _ _ (by decide)⟩
  · exact ⟨rfl, by decide, by decide, by decide, rfl, show ∀ k, k < 2 → _ by decide,
      calibrated_transfers _ _ _ _ (by decide)⟩

/-- Released at the first check, and at the last. -/
theorem witness_EarlyReleaseIsNoTouch :
    (let s := calibrated 2 (start vectorParams [] [] [.high])
     s.calValid = true ∧ 0 < s.nSamples.toNat ∧ s.AllCallsReturn ∧ s.PressedFor 0 ∧ s.pressAt 0 = .high ∧
       s.TransfersOk (4 * 0)) ∧
    (let s := calibrated 2 (start vectorParams [] [] [.low, .high])
     s.calValid = true ∧ 1 < s.nSamples.toNat ∧ s.AllCallsReturn ∧ s.PressedFor 1 ∧ s.pressAt 1 = .high ∧
       s.TransfersOk (4 * 1)) :=
  ⟨⟨rfl, by decide, rfl, show ∀ k, k < 0 → _ by decide, rfl, calibrated_transfers _ _ _ _ (by decide)⟩,
   ⟨rfl, by decide, rfl, show ∀ k, k < 1 → _ by decide, rfl, calibrated_transfers _ _ _ _ (by decide)⟩⟩

/-- The very first transfer, and the very last. -/
theorem witness_TouchTransferFailureIsErrTransport :
    (let s := calibrated 1 (start vectorParams [.fail 0] [] [.low])
     s.calValid = true ∧ 0 < s.nSamples.toNat ∧ s.AllCallsReturn ∧ s.PressedFor (0 + 1) ∧
       s.TransfersOk (4 * 0 + 0) ∧ s.transferAt (4 * 0 + 0) = .fail 0) ∧
    (let s := calibrated 1 (start vectorParams [.ok, .ok, .ok, .fail 2] [] [.low])
     s.calValid = true ∧ 0 < s.nSamples.toNat ∧ s.AllCallsReturn ∧ s.PressedFor (0 + 1) ∧
       s.TransfersOk (4 * 0 + 3) ∧ s.transferAt (4 * 0 + 3) = .fail 2) :=
  ⟨⟨rfl, by decide, rfl, show ∀ k, k < 1 → _ by decide, show ∀ k, k < 0 → _ by decide, rfl⟩,
   ⟨rfl, by decide, rfl, show ∀ k, k < 1 → _ by decide, show ∀ k, k < 3 → _ by decide, rfl⟩⟩

/-- All samples taken, released at the first check, and a first and a last transfer that fails. -/
theorem witness_TouchReadLeavesItsSums :
    (let s := calibrated 1 (start vectorParams [] [] [.low])
     s.calValid = true ∧ s.AllCallsReturn ∧ 1 ≤ s.nSamples.toNat ∧ s.PressedFor 1 ∧ s.TransfersOk (4 * 1) ∧
       1 = s.nSamples.toNat) ∧
    (let s := calibrated 1 (start vectorParams [] [] [.high])
     s.calValid = true ∧ s.AllCallsReturn ∧ 0 ≤ s.nSamples.toNat ∧ s.PressedFor 0 ∧ s.TransfersOk (4 * 0) ∧
       s.pressAt 0 = .high) ∧
    (∀ j, j = 0 ∨ j = 3 →
     let s := calibrated 1 (start vectorParams (List.replicate j .ok ++ [.fail 0]) [] [.low])
     s.calValid = true ∧ s.AllCallsReturn ∧ 0 ≤ s.nSamples.toNat ∧ s.PressedFor 0 ∧ s.TransfersOk (4 * 0) ∧
       s.pressAt 0 = .low ∧ j < 4 ∧ s.TransfersOk (4 * 0 + j) ∧ s.transferAt (4 * 0 + j) = .fail 0) := by
  refine ⟨⟨rfl, rfl, by decide, show ∀ k, k < 1 → _ by decide, calibrated_transfers _ _ _ _ (by decide), rfl⟩,
    ⟨rfl, rfl, by decide, show ∀ k, k < 0 → _ by decide, calibrated_transfers _ _ _ _ (by decide), rfl⟩, ?_⟩
  rintro j (rfl | rfl)
  · exact ⟨rfl, rfl, by decide, show ∀ k, k < 0 → _ by decide, show ∀ k, k < 0 → _ by decide, rfl, by decide,
      show ∀ k, k < 0 → _ by decide, rfl⟩
  · exact ⟨rfl, rfl, by decide, show ∀ k, k < 0 → _ by decide, show ∀ k, k < 0 → _ by decide, rfl, by decide,
      show ∀ k, k < 3 → _ by decide, rfl⟩

/-- All samples taken, and the early release. -/
theorem witness_TouchReadCounts (l : List Level) (h : l ∈ ([[.low], [.high]] : List (List Level))) :
    let s := calibrated 1 (start vectorParams [] [0x3F, 0x7A, 0x41, 0x35] l)
    s.calValid = true ∧ s.AllCallsReturn ∧ s.params.cmdReadX ≠ s.params.cmdReadY ∧
    (nextOf (exec .touchRead s)).map (fun t => decide (t.status ≠ 0x80)) = some true := by
  refine ⟨rfl, rfl, by show (0xD0 : Byte) ≠ 0x90; decide, ?_⟩
  revert l
  decide

theorem witness_MapAxisRangeAndMonotone : 0 < 1 ∧ 1500 ≤ 1500 ∧ 31000 ≤ 31000 ∧ 1500 < 31000 := by decide

/-- Just below the top, and at it. -/
theorem witness_TopOfRangeCorner : 1500 < 31000 ∧ 30999 < 31000 ∧ 1 ≤ 1 ∧ 31000 ≤ 31000 := by decide

/-- Before the first of two touch reads of one run, and between them: the touch controller answers both alike. -/
theorem witness_TouchReadDependsOnDrawsAndCalibrationOnly :
    let s := calibrated 1 (start vectorParams [] [0x3F, 0x7A, 0x41, 0x35, 0x3F, 0x7A, 0x41, 0x35] [.low, .low])
    ∃ s' t', exec .touchRead s = .next s' ∧ exec .touchRead s' = .next t' ∧ s'.env.calls = 7 ∧
      s'.params = s.params ∧ s'.nSamples = s.nSamples ∧ SameCalibration s s' ∧ SameDraws s s' 4 4 1 7 :=
  ⟨_, _, rfl, rfl, rfl, rfl, rfl, ⟨rfl, rfl, rfl, rfl, rfl, rfl, rfl⟩,
    show ∀ k, k < 4 → _ by decide, show ∀ k, k < 4 → _ by decide, show ∀ k, k < 1 → _ by decide,
    show ∀ k, k < 7 → _ by decide⟩

/-- A state with a request on the port meets the invariant, and steps. -/
theorem witness_StepKeepsTheInvariant :
    let s : State := { good with env.requests := [[0x20, 0x36, 0, 0, 0, 1, 0x11]] }
    Invariant s ∧ (nextOf (step s)).map (fun t => t.trace) =
      some [.sel .disp, .mode .command, .tx [0x36], .mode .data, .tx [0x11], .desel .disp] :=
  ⟨⟨by decide, by decide, by decide, by decide, by decide, fun _ => ⟨rfl, rfl⟩, .inl rfl, (fun _ h => nomatch h), .nil,
    fun h => absurd rfl h⟩, by decide⟩

theorem witness_EachRequestEndsWithItsKinds :
    (nextOf (exec (.frame 0x36 []) good)).map (fun t => t.seq) = some .idle := by decide

theorem witness_EachEndedRequestAnswersOnce :
    (nextOf (exec .touchRead (calibrated 1 (start vectorParams [] [0x3F, 0x7A, 0x41, 0x35] [.low])))).map
      (fun t => (t.seq, t.status)) = some (.idle, 0x01) ∧
    (nextOf (exec .touchRead good)).map (fun t => (t.seq, t.status)) = some (.idle, 0x81) := by decide

/-- Both clauses, on both devices. -/
theorem witness_OneScopePerRequest :
    (good.usesBus .touchRead = false ∧ (nextOf (exec .touchRead good)).map (fun t => t.seq) = some .idle) ∧
    (good.usesBus .init = true ∧ (nextOf (exec .init good)).map (fun t => t.seq) = some .idle) ∧
    (let s := calibrated 1 (start vectorParams [] [] [.high])
     s.usesBus .touchRead = true ∧ (nextOf (exec .touchRead s)).map (fun t => t.seq) = some .idle) := by
  refine ⟨⟨rfl, ?_⟩, ⟨rfl, ?_⟩, rfl, ?_⟩ <;> decide

/-- A request refused with each of the three kinds. -/
theorem witness_RefusalsHaveTheirCauses :
    (nextOf (exec (.cfgSamples 0) good)).map (fun t => (t.seq, t.status)) = some (.idle, 0x81) ∧
    (nextOf (exec (.writeString 0 0 1 0 0 []) good)).map (fun t => (t.seq, t.status)) = some (.idle, 0x82) ∧
    (nextOf (exec .init { good with initDone := true })).map (fun t => (t.seq, t.status)) = some (.idle, 0x83) := by
  refine ⟨?_, ?_, ?_⟩ <;> decide

theorem witness_RegistersHaveOneWriter (i : Instr) : ∃ t, exec i good = .next t := by
  cases i <;> exact ⟨_, rfl⟩

theorem witness_InitDoneLocksTheSurface (i : Instr) :
    ({ good with initDone := true } : State).initDone = true ∧ ∃ t, exec i { good with initDone := true } = .next t :=
  ⟨rfl, by cases i <;> exact ⟨_, rfl⟩⟩

end Sys2Proof.Tests
end

section
/-! PROOFS. Family 10_state: what a step runs, the result registers, and that a request ends or hangs. -/

namespace Sys2Proof.Machine

/-! ### Steps (10_state R11, R12) -/

/-- Settles O6: the request at the head of the port is the one `step` decodes. -/
theorem stepRunsTheDecodedRequest : Obligations.StepRunsTheDecodedRequest := by
  intro s bytes rest i hidle hreq hdec
  simp only [step, hidle, State.takeRequest, hreq, hdec]

theorem step_of_illegal {s : State} {bytes : List Byte} {rest : List (List Byte)} {why : Illegal}
    (hidle : s.seq = .idle) (hreq : s.env.requests = bytes :: rest) (hdec : decode s.params bytes = .error why) :
    step s = .next (({ s with env.requests := rest } : State).answer .errIllegal) := by
  simp only [step, hidle, State.takeRequest, hreq, hdec, answerIllegal]

/-- Settles O8: the placed word is at the head of the port, and taking it leaves the state before it was placed. -/
theorem fetchWordRunsNext : Obligations.FetchWordRunsNext := by
  intro s nbits w i hidle hdec
  exact stepRunsTheDecodedRequest (s.withFetchWord nbits w) (tableRequest nbits w) s.env.requests i hidle rfl hdec

/-- What a step that gives a next state did: it waited, answered bytes that are no request, or executed one. -/
theorem step_cases {s t : State} (h : step s = .next t) :
    s.seq = .idle ∧ (t = s ∨ ∃ rest,
      t = ({ s with env.requests := rest } : State).answer .errIllegal ∨
      ∃ i, exec i { s with env.requests := rest } = .next t) := by
  cases hseq : s.seq with
  | busy req pos => simp [step, hseq] at h
  | idle =>
    refine ⟨rfl, ?_⟩
    cases hreq : s.env.requests with
    | nil =>
      simp only [step, hseq, State.takeRequest, hreq, Host.Outcome.next.injEq] at h
      exact .inl h.symm
    | cons bytes rest =>
      refine .inr ⟨rest, ?_⟩
      cases hdec : decode s.params bytes with
      | ok i => exact .inr ⟨i, (stepRunsTheDecodedRequest s bytes rest i hseq hreq hdec).symm.trans h⟩
      | error why => exact .inl (Host.Outcome.next.inj ((step_of_illegal hseq hreq hdec).symm.trans h)).symm

/-! ### The result registers (10_state R27, 60_exceptions R220) -/

/-- The clauses of the invariant that speak of the result registers and the response history. -/
structure ResultsLegal (t : State) : Prop where
  statusLegal : t.status ∈ statusCodes
  resultsZero : t.status ≠ Kind.touch.code → t.resX = 0 ∧ t.resY = 0
  lastResponse : t.responses = [] ∨ t.responses.getLast? = some ⟨t.status, t.resX, t.resY⟩
  exactResult : ∀ y, t.yExact = some y → t.status = Kind.touch.code ∧ t.resY = BitVec.ofInt 16 y

/-- The result registers and the response history are unchanged. -/
structure SameResults (s t : State) : Prop where
  status_eq : t.status = s.status
  resX_eq : t.resX = s.resX
  resY_eq : t.resY = s.resY
  responses_eq : t.responses = s.responses
  yExact_eq : t.yExact = s.yExact

theorem Kind.code_mem_statusCodes (k : Kind) : k.code ∈ statusCodes := by
  cases k <;> decide

theorem ResultsLegal.answer (u : State) (k : Kind) : ResultsLegal (u.answer k) where
  statusLegal := k.code_mem_statusCodes
  resultsZero _ := ⟨rfl, rfl⟩
  lastResponse := .inr (by simp)
  exactResult := by simp

theorem ResultsLegal.answerTouch (u : State) (x : Nat) (y : Int) : ResultsLegal (u.answerTouch x y) where
  statusLegal := Kind.touch.code_mem_statusCodes
  resultsZero h := absurd rfl h
  lastResponse := .inr (by simp)
  exactResult := by simp

theorem ResultsLegal.finishTouch (u : State) : ResultsLegal (finishTouch u) := by
  rcases finishTouch_cases u with h | ⟨x, y, h⟩ <;> rw [h]
  · exact .answer u _
  · exact .answerTouch u x y

theorem ResultsLegal.endDisplay (i : Instr) (u : State) : ResultsLegal (endDisplay i u) := by
  unfold Machine.endDisplay
  split <;> exact .answer _ _

theorem ResultsLegal.of_same {s t : State} (h : ResultsLegal s) (hs : SameResults s t) : ResultsLegal t where
  statusLegal := by rw [hs.status_eq]; exact h.statusLegal
  resultsZero := by rw [hs.status_eq, hs.resX_eq, hs.resY_eq]; exact h.resultsZero
  lastResponse := by
    rw [hs.responses_eq, hs.status_eq, hs.resX_eq, hs.resY_eq]; exact h.lastResponse
  exactResult := by rw [hs.yExact_eq, hs.status_eq, hs.resY_eq]; exact h.exactResult

/-! ### A request ends or hangs (10_state R12, 60_exceptions R240) -/

theorem neverReturns_of_not_callReturns {u : State} (h : u.callReturns = false) :
    u.env.neverReturns = some u.env.calls := by
  simpa [State.callReturns] using h

/-- A request that hung: BUSY with its call outstanding, the call that never returns, and nothing answered. -/
structure Hung (s t : State) : Prop where
  busy : t.seq ≠ .idle
  call : t.env.neverReturns = some t.env.calls
  neverReturns_eq : t.env.neverReturns = s.env.neverReturns
  results : SameResults s t

theorem Hung.play {i : Instr} {s : State} {l : List Event} (c : Call)
    (h : ((s.begin i).play l).callReturns = false) : Hung s (((s.begin i).play l).hang c) where
  busy := by simp [State.play_seq l (s.begin i) i 0 rfl, Seq.wait]
  call := neverReturns_of_not_callReturns h
  neverReturns_eq := by simp
  results := ⟨by simp, by simp, by simp, by simp, by simp⟩

theorem Hung.touch {s u : State} {l : List Event} (c : Call) (h : u.callReturns = false)
    (hr : TouchReach (s.begin .touchRead) u l) : Hung s (u.hang c) where
  busy := by simp [hr.seq_eq _ _ rfl, Seq.wait]
  call := neverReturns_of_not_callReturns h
  neverReturns_eq := hr.neverReturns_eq
  results := by
    obtain ⟨hst, hx, hy⟩ := hr.result_eq
    exact ⟨hst, hx, hy, hr.responses_eq, hr.yExact_eq⟩

/-- A request answers, and the block is IDLE, or it hangs. -/
theorem exec_ends_or_hangs {i : Instr} {s t : State} (h : exec i s = .next t) :
    (t.seq = .idle ∧ ResultsLegal t) ∨ Hung s t := by
  cases exec_shape h with
  | direct k u ends => subst ends; exact .inl ⟨rfl, .answer u k⟩
  | dispOk plan _ ends => subst ends; exact .inl ⟨(endDisplay_keeps i _).1, .endDisplay i _⟩
  | dispFail pre b post _ ends => subst ends; exact .inl ⟨rfl, .answer _ _⟩
  | dispHung l c plan _ _ hangs ends => subst ends; exact .inr (.play c hangs)
  | touchDone u l _ _ ends => subst ends; exact .inl ⟨(finishTouch_onlyAnswers u).idle, .finishTouch u⟩
  | touchFail u l _ _ ends => subst ends; exact .inl ⟨rfl, .answer u _⟩
  | touchHung u c _ ends hangs reach =>
    subst ends
    rcases reach with ⟨_, hr⟩ | ⟨l, _, _, _, _, _, hr⟩ <;> exact .inr (.touch c hangs hr)

theorem exec_total (i : Instr) (s : State) : ∃ t, exec i s = .next t := by
  cases i <;> exact ⟨_, rfl⟩

/-- Settles O9: `exec` always answers a next state, and a hung one names a call that never returns. -/
theorem everyRequestEnds : Obligations.EveryRequestEnds := by
  intro i s hall
  obtain ⟨t, ht⟩ := exec_total i s
  refine ⟨t, ht, ?_⟩
  rcases exec_ends_or_hangs ht with ⟨hidle, _⟩ | hung
  · exact hidle
  · have hnone : t.env.neverReturns = none := hung.neverReturns_eq.trans hall
    rw [hung.call] at hnone
    cases hnone

end Sys2Proof.Machine
end

section
/-! PROOFS. Family 10_state: which request writes which register, whether it ends or hangs. -/

namespace Sys2Proof.Machine

/-! ### Which request writes which register (10_state R29) -/

/-- The three configuration requests (45_config). -/
def Configures (i : Instr) : Prop :=
  (∃ w h rot, i = .cfgSurface w h rot) ∨ (∃ a b c d e f, i = .cfgCal a b c d e f) ∨ (∃ n, i = .cfgSamples n)

/-- The "written by" column of 10_state R29, between the state a request starts in and one it has reached. -/
structure OneWriter (i : Instr) (s t : State) : Prop where
  surface : (∀ w h rot, i ≠ .cfgSurface w h rot) → SameSurface s t
  nSamples : (∀ n, i ≠ .cfgSamples n) → t.nSamples = s.nSamples
  calibration : (∀ a b c d e f, i ≠ .cfgCal a b c d e f) → SameCalibration s t
  init : i ≠ .init → t.initDone = s.initDone ∧ t.rst = s.rst
  touch : i ≠ .touchRead → SameSums s t ∧ t.csTouch = s.csTouch
  display : i = .touchRead → t.csDisp = s.csDisp ∧ t.dc = s.dc
  offBus : Configures i → t.csDisp = s.csDisp ∧ t.csTouch = s.csTouch ∧ t.dc = s.dc ∧ t.trace = s.trace
  params_eq : t.params = s.params
  requests_eq : t.env.requests = s.env.requests

theorem OneWriter.begin (i : Instr) (s : State) : OneWriter i s (s.begin i) where
  surface _ := ⟨rfl, rfl, rfl⟩
  nSamples _ := rfl
  calibration _ := ⟨rfl, rfl, rfl, rfl, rfl, rfl, rfl⟩
  init _ := ⟨rfl, rfl⟩
  touch _ := ⟨⟨rfl, rfl, rfl⟩, rfl⟩
  display _ := ⟨rfl, rfl⟩
  offBus _ := ⟨rfl, rfl, rfl, rfl⟩
  params_eq := rfl
  requests_eq := rfl

theorem OneWriter.setSurface (w h : U16) (rot : Byte) (s : State) :
    OneWriter (.cfgSurface w h rot) s
      { s.begin (.cfgSurface w h rot) with surfW := w, surfH := h, rotMask := rot } :=
  { OneWriter.begin (.cfgSurface w h rot) s with surface := fun hne => absurd rfl (hne w h rot) }

theorem OneWriter.setCalibration (a b c d e f : U16) (s : State) :
    OneWriter (.cfgCal a b c d e f) s ((s.begin (.cfgCal a b c d e f)).setCalibration a b c d e f) :=
  { OneWriter.begin (.cfgCal a b c d e f) s with calibration := fun hne => absurd rfl (hne a b c d e f) }

theorem OneWriter.setSamples (n : U16) (s : State) :
    OneWriter (.cfgSamples n) s { s.begin (.cfgSamples n) with nSamples := n } :=
  { OneWriter.begin (.cfgSamples n) s with nSamples := fun hne => absurd rfl (hne n) }

theorem OneWriter.answer {i : Instr} {s u : State} (h : OneWriter i s u) (k : Kind) : OneWriter i s (u.answer k) :=
  { h with }

theorem OneWriter.finishTouch {i : Instr} {s u : State} (h : OneWriter i s u) :
    OneWriter i s (finishTouch u) := by
  rcases finishTouch_cases u with hf | ⟨x, y, hf⟩ <;> rw [hf]
  · exact h.answer _
  · exact { h with }

theorem OneWriter.hang {i : Instr} {s u : State} (h : OneWriter i s u) (c : Call) : OneWriter i s (u.hang c) :=
  { h with }

theorem OneWriter.endDisplay {i : Instr} {s u : State} (h : OneWriter i s u) : OneWriter i s (endDisplay i u) := by
  unfold Machine.endDisplay
  split
  case isTrue hi => exact { h with init := fun hne => absurd hi hne }
  case isFalse => exact h.answer _

/-- The events the calls of display request `i` make: none on the touch side, and the reset line is INIT's alone. -/
def Event.ofDisplay (i : Instr) : Event → Prop
  | .sel .disp | .desel .disp | .mode _ | .tx _ | .txFail _ | .delay _ => True
  | .rst _ => i = .init
  | _ => False

theorem displayPlan_ofDisplay {i : Instr} {s : State} {plan : List Event} (h : s.displayPlan i = some plan) :
    ∀ e ∈ plan, e.ofDisplay i := by
  intro e he
  have hinner := displayPlan_inner h e he
  cases e with
  | mode | tx | delay => trivial
  | rst level =>
    by_contra hi
    exact absurd (displayPlan_drawing h hi _ he) (by simp [Event.drawing])
  | sel | desel | txFail | txRx | txRxFail | press => simp [Event.inner] at hinner

theorem emit_csTouch_of_display {i : Instr} (s : State) (e : Event) (he : e.ofDisplay i) :
    (s.emit e).csTouch = s.csTouch := by
  cases e with
  | sel dev | desel dev => cases dev with
    | disp => rfl
    | touch => exact he.elim
  | _ => rfl

theorem emit_rst_of_display {i : Instr} (hi : i ≠ .init) (s : State) (e : Event) (he : e.ofDisplay i) :
    (s.emit e).rst = s.rst := by
  cases e with
  | rst level => exact absurd he hi
  | sel dev | desel dev => cases dev <;> rfl
  | _ => rfl

theorem not_configures_of_displayPlan {i : Instr} {s : State} {plan : List Event}
    (h : s.displayPlan i = some plan) : ¬ Configures i := by
  rintro (⟨w, h', rot, rfl⟩ | ⟨a, b, c, d, e, f, rfl⟩ | ⟨n, rfl⟩) <;> cases h

theorem OneWriter.play {i : Instr} {s : State} {plan l : List Event} (hp : s.displayPlan i = some plan)
    (hl : ∀ e ∈ l, e.ofDisplay i) : OneWriter i s ((s.begin i).play l) where
  surface _ := by simp [SameSurface]
  nSamples _ := by simp
  calibration _ := by simp [SameCalibration]
  init hi := ⟨by simp, State.play_keeps_of State.rst _ (emit_rst_of_display hi) l _ hl⟩
  touch _ := ⟨by simp [SameSums], State.play_keeps_of State.csTouch _ emit_csTouch_of_display l _ hl⟩
  display hi := by subst hi; cases hp
  offBus hc := absurd hc (not_configures_of_displayPlan hp)
  params_eq := by simp
  requests_eq := by simp

theorem OneWriter.touch_reach {s u : State} {l : List Event} (hr : TouchReach (s.begin .touchRead) u l) :
    OneWriter .touchRead s u where
  surface _ := hr.surface
  nSamples _ := hr.nSamples_eq
  calibration _ := hr.calibration
  init _ := ⟨hr.initDone_eq, hr.rst_eq⟩
  touch hne := absurd rfl hne
  display _ := ⟨hr.csDisp_eq, hr.dc_eq⟩
  offBus hc := by simp [Configures] at hc
  params_eq := hr.params_eq
  requests_eq := hr.requests_eq

theorem scope_ofDisplay {i : Instr} {m tail : List Event} (hm : ∀ e ∈ m, e.ofDisplay i)
    (ht : ∀ e ∈ tail, e.ofDisplay i) : ∀ e ∈ .sel .disp :: m ++ tail, e.ofDisplay i :=
  List.forall_mem_cons.2 ⟨trivial, List.forall_mem_append.2 ⟨hm, ht⟩⟩

/-- Every request, ended or hung, keeps to the registers it may write. -/
theorem exec_oneWriter {i : Instr} {s t : State} (h : exec i s = .next t) : OneWriter i s t := by
  cases exec_shape h with
  | direct k u ends _ _ _ _ writes =>
    subst ends
    refine OneWriter.answer ?_ k
    rcases writes with rfl | ⟨w, h', rot, rfl, _, _, rfl⟩ | ⟨a, b, c, d, e, f, rfl, _, _, rfl⟩ |
      ⟨n, rfl, _, _, rfl⟩
    · exact .begin i s
    · exact .setSurface w h' rot s
    · exact .setCalibration a b c d e f s
    · exact .setSamples n s
  | dispOk plan planned ends =>
    subst ends
    have hp := displayPlan_ofDisplay planned
    exact (OneWriter.play planned (scope_ofDisplay hp (by simp [Event.ofDisplay]))).endDisplay
  | dispFail pre b post planned ends =>
    subst ends
    have hpre := (List.forall_mem_append.1 (displayPlan_ofDisplay planned)).1
    exact (OneWriter.play planned (scope_ofDisplay hpre (by simp [Event.ofDisplay]))).answer _
  | dispHung l c plan planned made _ ends =>
    subst ends
    refine (OneWriter.play planned ?_).hang c
    have hp := displayPlan_ofDisplay planned
    rcases made with rfl | ⟨m, rfl, ⟨r, rfl⟩ | ⟨pre, b, post, rfl, rfl⟩⟩
    · simp
    · simpa using scope_ofDisplay (List.forall_mem_append.1 hp).1 (tail := []) (by simp)
    · exact scope_ofDisplay (List.forall_mem_append.1 hp).1 (by simp [Event.ofDisplay])
  | touchDone u l req _ ends _ _ _ reach =>
    subst req ends
    exact (OneWriter.touch_reach reach).finishTouch
  | touchFail u l req _ ends _ _ _ reach =>
    subst req ends
    exact (OneWriter.touch_reach reach).answer _
  | touchHung u c req ends _ reach =>
    subst req ends
    rcases reach with ⟨_, hr⟩ | ⟨l, _, _, _, _, _, hr⟩ <;> exact (OneWriter.touch_reach hr).hang c

/-- Settles O51, which lists the fields of `OneWriter`. -/
theorem registersHaveOneWriter : Obligations.RegistersHaveOneWriter := by
  intro i s t h
  have w := exec_oneWriter h
  exact ⟨w.surface, w.nSamples, w.calibration, w.init, w.touch, w.display, w.offBus, w.params_eq, w.requests_eq⟩

end Sys2Proof.Machine
end

section
/-! PROOFS. Family 10_state: the select-scope discipline of every request, and that a step keeps the invariant. -/

namespace Sys2Proof.Machine

/-! ### The scope of a select line and the lines (20_memory R61) -/

/-- A call the discipline allows leaves the lines its scope says. -/
theorem Scope.fits_emit {c : Nat} {sc sc' : Scope} {s : State} {e : Event} (hfits : sc.fits s = true)
    (hnext : sc.next c e = some sc') : sc'.fits (s.emit e) = true := by
  unfold Scope.next at hnext
  split at hnext <;> simp only [Option.ite_none_right_eq_some, Option.some.injEq, reduceCtorEq] at hnext
  -- the arms that test the bytes
  case h_4 | h_5 | h_10 | h_11 | h_12 | h_13 =>
    obtain ⟨_, rfl⟩ := hnext
    simp_all [Scope.fits, State.emit, State.apply]
  -- the others
  all_goals
    subst hnext
    simp_all [Scope.fits, State.emit, State.apply]

theorem Scope.run_cons {c : Nat} {sc sc' : Scope} {e : Event} {l : List Event} (h : sc.run c (e :: l) = some sc') :
    ∃ mid, sc.next c e = some mid ∧ mid.run c l = some sc' := by
  cases hnext : sc.next c e with
  | none => simp [Scope.run, hnext] at h
  | some mid => exact ⟨mid, rfl, by simpa [Scope.run, hnext] using h⟩

theorem Scope.fits_play {c : Nat} : ∀ (l : List Event) {sc sc' : Scope} {s : State}, sc.fits s = true →
    sc.run c l = some sc' → sc'.fits (s.play l) = true
  | [], sc, sc', s, hfits, hrun => by cases hrun; exact hfits
  | e :: l, sc, sc', s, hfits, hrun => by
    obtain ⟨mid, hnext, hrun⟩ := Scope.run_cons hrun
    exact Scope.fits_play l (Scope.fits_emit hfits hnext) hrun

/-- Only the lines matter to `fits`. -/
theorem Scope.fits_of_lines {sc : Scope} {s t : State} (h : t.lines = s.lines) : sc.fits t = sc.fits s := by
  obtain ⟨hd, ht, hdc⟩ : t.csDisp = s.csDisp ∧ t.csTouch = s.csTouch ∧ t.dc = s.dc := by
    simpa [State.lines] using h
  simp only [Scope.fits, hd, ht, hdc]

theorem Scope.run_of_append {c : Nat} {sc sc' : Scope} {a b : List Event} (h : sc.run c (a ++ b) = some sc') :
    ∃ mid, sc.run c a = some mid ∧ mid.run c b = some sc' :=
  Option.bind_eq_some_iff.1 (Scope.run_append c a b sc ▸ h)

theorem State.busSafe_iff (s : State) : s.busSafe = true ↔
    ∃ sc, Scope.closed.run s.params.chunkMax s.trace = some sc ∧ sc.fits s = true ∧
      (s.seq = .idle → sc = .closed) := by
  unfold State.busSafe
  cases Scope.closed.run s.params.chunkMax s.trace with
  | none => simp
  | some sc => by_cases hs : s.seq = .idle <;> simp [hs]

/-! ### What a display request sends stays in its scope (40_framer R100, R102, R110) -/

/-- Events that, inside a scope of the display, keep it open. -/
def KeepsDisplay (c : Nat) (l : List Event) : Prop := ∀ m, ∃ m', (Scope.disp m).run c l = some (.disp m')

theorem KeepsDisplay.nil (c : Nat) : KeepsDisplay c [] := fun m => ⟨m, rfl⟩

theorem KeepsDisplay.append {c : Nat} {a b : List Event} (ha : KeepsDisplay c a) (hb : KeepsDisplay c b) :
    KeepsDisplay c (a ++ b) := by
  intro m
  obtain ⟨m₁, h₁⟩ := ha m
  obtain ⟨m₂, h₂⟩ := hb m₁
  exact ⟨m₂, by rw [Scope.run_append, h₁]; exact h₂⟩

theorem KeepsDisplay.flatMap {α : Type} {c : Nat} {f : α → List Event} (h : ∀ a, KeepsDisplay c (f a)) :
    ∀ l : List α, KeepsDisplay c (l.flatMap f)
  | [] => .nil c
  | a :: l => (h a).append (KeepsDisplay.flatMap h l)

theorem wireCmd_keepsDisplay (c : Nat) (b : Byte) : KeepsDisplay c (wireCmd b) := fun _ => ⟨some .command, rfl⟩

theorem txs_run_data {c : Nat} : ∀ l : List (List Byte), (∀ x ∈ l, 1 ≤ x.length ∧ x.length ≤ c) →
    (Scope.disp (some .data)).run c (l.map Event.tx) = some (.disp (some .data))
  | [], _ => rfl
  | x :: l, h => by
    obtain ⟨hx, hl⟩ := List.forall_mem_cons.1 h
    simp [Scope.run, Scope.next, displayTxLegal, hx, txs_run_data l hl]

theorem wireData_keepsDisplay {c : Nat} (hc : 1 ≤ c) (p : List Byte) : KeepsDisplay c (wireData c p) :=
  fun _ => ⟨some .data, txs_run_data (chunks c p) (chunks_mem hc)⟩

theorem wireFrame_keepsDisplay {c : Nat} (hc : 1 ≤ c) (cmd : Byte) (p : List Byte) :
    KeepsDisplay c (wireFrame c cmd p) := by
  refine (wireCmd_keepsDisplay c cmd).append ?_
  split
  · exact .nil c
  · exact wireData_keepsDisplay hc p

theorem wireCell_keepsDisplay {p : Params} (hc : 1 ≤ p.chunkMax) (x y w h : Nat) (pixels : List U16) :
    KeepsDisplay p.chunkMax (wireCell p x y w h pixels) :=
  (((wireFrame_keepsDisplay hc _ _).append (wireFrame_keepsDisplay hc _ _)).append
    (wireCmd_keepsDisplay _ _)).append (.flatMap (fun _ => wireData_keepsDisplay hc _) pixels)

theorem wireDelay_keepsDisplay (c ms : Nat) : KeepsDisplay c (wireDelay ms) := by
  unfold wireDelay
  split
  · exact fun m => ⟨m, rfl⟩
  · exact .nil c

theorem wireInit_keepsDisplay {p : Params} (hc : 1 ≤ p.chunkMax) : KeepsDisplay p.chunkMax (wireInit p) := by
  have rst : ∀ level, KeepsDisplay p.chunkMax [.rst level] := fun _ m => ⟨m, rfl⟩
  exact ((((rst .low).append (wireDelay_keepsDisplay _ _)).append (rst .high)).append
    (wireDelay_keepsDisplay _ _)).append
    (.flatMap (fun _ => (wireFrame_keepsDisplay hc _ _).append (wireDelay_keepsDisplay _ _)) _)

theorem displayPlan_keepsDisplay {i : Instr} {s : State} {plan : List Event} (hc : 1 ≤ s.params.chunkMax)
    (h : s.displayPlan i = some plan) : KeepsDisplay s.params.chunkMax plan := by
  cases i with
  | cfgSurface | cfgCal | cfgSamples | touchRead => cases h
  | init =>
    by_cases hd : s.initDone = true
    · simp [State.displayPlan, hd] at h
    · simp only [State.displayPlan, hd] at h
      cases h
      exact wireInit_keepsDisplay hc
  | frame cmd payload => cases h; exact wireFrame_keepsDisplay hc cmd payload
  | fillRect | fillScreen | clear =>
    obtain ⟨r, _, rfl⟩ := Option.map_eq_some_iff.1 h
    exact wireCell_keepsDisplay hc _ _ _ _ _
  | writeString x y font fg bg text =>
    obtain ⟨f, _, rfl⟩ := Option.map_eq_some_iff.1 h
    exact .flatMap (fun _ => wireCell_keepsDisplay hc _ _ _ _ _) _

theorem inner_run {c : Nat} : ∀ {l : List Event} {m : Option DcMode} {sc : Scope}, (∀ e ∈ l, e.inner = true) →
    (Scope.disp m).run c l = some sc → ∃ m', sc = .disp m'
  | [], m, _, _, hrun => ⟨m, (Option.some.inj hrun).symm⟩
  | e :: l, m, sc, hl, hrun => by
    obtain ⟨he, hl⟩ := List.forall_mem_cons.1 hl
    obtain ⟨mid, hnext, hrun⟩ := Scope.run_cons hrun
    obtain ⟨m', rfl⟩ : ∃ m', mid = .disp m' := by
      cases e with
      | mode d => exact ⟨some d, (Option.some.inj hnext).symm⟩
      | rst | delay => exact ⟨m, (Option.some.inj hnext).symm⟩
      | tx b => exact ⟨m, (Option.some.inj (Option.ite_none_right_eq_some.1 hnext).2).symm⟩
      | sel | desel | txFail | txRx | txRxFail | press => simp [Event.inner] at he
    exact inner_run hl hrun

/-- A first part of what keeps a scope of the display open keeps it open. -/
theorem KeepsDisplay.of_append {c : Nat} {a b : List Event} (ha : ∀ e ∈ a, e.inner = true)
    (h : KeepsDisplay c (a ++ b)) : KeepsDisplay c a := by
  intro m
  obtain ⟨_, hrun⟩ := h m
  obtain ⟨mid, hmid, -⟩ := Scope.run_of_append hrun
  obtain ⟨m', rfl⟩ := inner_run ha hmid
  exact ⟨m', hmid⟩

/-- A first part of a plan up to a transmit that fails leaves the failed scope. -/
theorem KeepsDisplay.run_txFail {c : Nat} {pre post : List Event} {b : List Byte}
    (hpre : ∀ e ∈ pre, e.inner = true) (h : KeepsDisplay c (pre ++ .tx b :: post)) (m : Option DcMode) :
    (Scope.disp m).run c (pre ++ [.txFail b]) = some (.failed .disp) := by
  obtain ⟨m', hrun⟩ := h.of_append hpre m
  obtain ⟨_, hall⟩ := h m
  rw [Scope.run_append, hrun] at hall ⊢
  by_cases hb : displayTxLegal c m' b = true
  · simp [Scope.run, Scope.next, hb]
  · simp [Scope.run, Scope.next, hb] at hall

/-! ### Every request keeps the discipline (20_memory R61, R62) -/

/-- From s, where no scope is open, to t the call trace kept the discipline, and it stands in a scope that t's lines
fit, closed when the block is IDLE. -/
def KeepsDiscipline (s t : State) : Prop :=
  ∃ l sc, t.trace = s.trace ++ l ∧ Scope.closed.run s.params.chunkMax l = some sc ∧ sc.fits t = true ∧
    (t.seq = .idle → sc = .closed)

theorem KeepsDiscipline.of_play {i : Instr} {s t : State} {l : List Event} {sc : Scope}
    (hfits : Scope.closed.fits s = true) (hrun : Scope.closed.run s.params.chunkMax l = some sc)
    (htrace : t.trace = ((s.begin i).play l).trace) (hlines : t.lines = ((s.begin i).play l).lines)
    (hidle : t.seq = .idle → sc = .closed) : KeepsDiscipline s t := by
  have hbegin : Scope.closed.fits (s.begin i) = true := hfits
  exact ⟨l, sc, by simp [htrace], hrun, Scope.fits_of_lines hlines ▸ Scope.fits_play l hbegin hrun, hidle⟩

theorem KeepsDiscipline.of_same {s t : State} (hfits : Scope.closed.fits s = true) (htrace : t.trace = s.trace)
    (hlines : t.lines = s.lines) : KeepsDiscipline s t :=
  ⟨[], .closed, by simp [htrace], rfl, Scope.fits_of_lines hlines ▸ hfits, fun _ => rfl⟩

/-- A whole scope of the display, however its plan ended. -/
theorem run_display_scope {c : Nat} {m : List Event} {sc : Scope} (h : (Scope.disp none).run c m = some sc)
    (hsc : (∃ d, sc = .disp d) ∨ sc = .failed .disp) :
    Scope.closed.run c (.sel .disp :: m ++ [.desel .disp]) = some .closed := by
  change (Scope.disp none).run c (m ++ [.desel .disp]) = _
  rw [Scope.run_append, h]
  rcases hsc with ⟨d, rfl⟩ | rfl <;> rfl

/-- A whole scope of the touch controller, however its loop ended. -/
theorem run_touch_scope {c : Nat} {l : List Event} {sc : Scope} (h : Scope.touch.run c l = some sc)
    (hsc : sc = .touch ∨ sc = .failed .touch) :
    Scope.closed.run c (.sel .touch :: l ++ [.desel .touch]) = some .closed := by
  change Scope.touch.run c (l ++ [.desel .touch]) = _
  rw [Scope.run_append, h]
  rcases hsc with rfl | rfl <;> rfl

theorem endDisplay_lines (i : Instr) (u : State) : (endDisplay i u).lines = u.lines := by
  unfold endDisplay
  split <;> rfl

theorem endDisplay_trace (i : Instr) (u : State) : (endDisplay i u).trace = u.trace := by
  unfold endDisplay
  split <;> rfl

theorem exec_keepsDiscipline {i : Instr} {s t : State} (hc : 1 ≤ s.params.chunkMax)
    (hfits : Scope.closed.fits s = true) (h : exec i s = .next t) : KeepsDiscipline s t := by
  have hdisp : s.csDisp = .deasserted := by simp [Scope.fits] at hfits; exact hfits.1
  cases exec_shape h with
  | direct k u ends _ _ _ _ writes =>
    subst ends
    rcases writes with rfl | ⟨w, h', rot, rfl, _, _, rfl⟩ | ⟨a, b, c, d, e, f, rfl, _, _, rfl⟩ |
      ⟨n, rfl, _, _, rfl⟩ <;>
      exact .of_same hfits rfl rfl
  | dispOk plan planned ends =>
    subst ends
    obtain ⟨m, hrun⟩ := displayPlan_keepsDisplay hc planned none
    exact .of_play (i := i) hfits (run_display_scope hrun (.inl ⟨m, rfl⟩)) (endDisplay_trace ..)
      (endDisplay_lines ..) fun _ => rfl
  | dispFail pre b post planned ends =>
    subst ends
    have hpre := (List.forall_mem_append.1 (displayPlan_inner planned)).1
    have hrun := (displayPlan_keepsDisplay hc planned).run_txFail hpre none
    have hscope : Scope.closed.run s.params.chunkMax (.sel .disp :: pre ++ [.txFail b, .desel .disp]) =
        some .closed := by simpa using run_display_scope hrun (.inr rfl)
    exact .of_play (i := i) hfits hscope rfl rfl fun _ => rfl
  | dispHung l c plan planned made hangs ends =>
    subst ends
    obtain ⟨sc, hrun⟩ : ∃ sc, Scope.closed.run s.params.chunkMax l = some sc := by
      have hinner := displayPlan_inner planned
      have hkeeps := displayPlan_keepsDisplay hc planned
      rcases made with rfl | ⟨m, rfl, ⟨r, rfl⟩ | ⟨pre, b, post, rfl, rfl⟩⟩
      · exact ⟨_, rfl⟩
      · obtain ⟨m', hrun⟩ := hkeeps.of_append (List.forall_mem_append.1 hinner).1 none
        exact ⟨_, hrun⟩
      · exact ⟨_, hkeeps.run_txFail (List.forall_mem_append.1 hinner).1 none⟩
    exact .of_play (i := i) hfits hrun rfl rfl fun hidle => absurd hidle (Hung.play c hangs).busy
  | touchDone u l req _ ends scope _ closed reach =>
    subst ends
    have hend := finishTouch_onlyAnswers u
    refine ⟨_, .closed, hend.trace_eq.trans reach.trace_eq, run_touch_scope (scope _) (.inl rfl), ?_, fun _ => rfl⟩
    have hcsDisp : u.csDisp = .deasserted := reach.csDisp_eq.trans hdisp
    simp [Scope.fits, hend.csDisp_eq, hend.csTouch_eq, hcsDisp, closed]
  | touchFail u l req _ ends scope _ closed reach =>
    subst ends
    refine ⟨_, .closed, reach.trace_eq, run_touch_scope (scope _) (.inr rfl), ?_, fun _ => rfl⟩
    have hcsDisp : u.csDisp = .deasserted := reach.csDisp_eq.trans hdisp
    simp [Scope.fits, hcsDisp, closed]
  | touchHung u c req ends hangs reach =>
    subst ends
    rcases reach with ⟨hcs, hr⟩ | ⟨l, sc, hsc, scope, _, hcs, hr⟩
    · refine .of_same hfits (by simpa using hr.trace_eq) ?_
      have hd := hr.csDisp_eq
      have hdc := hr.dc_eq
      simp [State.lines, hcs, hd, hdc]
    · refine ⟨_, sc, hr.trace_eq, scope _, ?_, fun hidle => absurd hidle (Hung.touch c hangs hr).busy⟩
      have hcsDisp : u.csDisp = .deasserted := hr.csDisp_eq.trans hdisp
      rcases hsc with rfl | rfl <;> simp [Scope.fits, hcs, hcsDisp]

/-! ### Every step keeps the invariant -/

theorem exec_samplesLegal {i : Instr} {s t : State} (hs : s.nSamples ≠ 0) (h : exec i s = .next t) :
    t.nSamples ≠ 0 := by
  by_cases hi : ∃ n, i = .cfgSamples n
  · obtain ⟨n, rfl⟩ := hi
    by_cases hn : n = 0
    · rw [exec, execCfgSamples, if_pos hn] at h
      cases h; exact hs
    · rw [exec, execCfgSamples, if_neg hn] at h
      cases h; exact hn
  · rw [(exec_oneWriter h).nSamples (not_exists.1 hi)]
    exact hs

theorem exec_calibrationLegal {i : Instr} {s t : State}
    (hs : s.calValid = true → calibrationLegal s.calMinX s.calMaxX s.calMinY s.calMaxY = true)
    (h : exec i s = .next t) :
    t.calValid = true → calibrationLegal t.calMinX t.calMaxX t.calMinY t.calMaxY = true := by
  by_cases hi : ∃ a b c d e f, i = .cfgCal a b c d e f
  · obtain ⟨a, b, c, d, e, f, rfl⟩ := hi
    by_cases hcal : calibrationLegal a b c d = true
    · rw [exec, execCfgCal, if_pos hcal] at h
      cases h; exact fun _ => hcal
    · rw [exec, execCfgCal, if_neg hcal] at h
      cases h; exact hs
  · obtain ⟨hx, hX, hy, hY, _, _, hv⟩ := (exec_oneWriter h).calibration (by simpa using hi)
    rw [hx, hX, hy, hY, hv]
    exact hs

/-- Between requests no scope is open. -/
theorem Invariant.run_closed {s : State} (hs : Invariant s) (hidle : s.seq = .idle) :
    Scope.closed.run s.params.chunkMax s.trace = some .closed ∧ Scope.closed.fits s = true := by
  obtain ⟨sc, hrun, hfits, hsc⟩ := s.busSafe_iff.1 hs.busSafe
  obtain rfl := hsc hidle
  exact ⟨hrun, hfits⟩

/-- The invariant after a step, from what the step did to each part of it. -/
theorem Invariant.of_step {s t : State} (hs : Invariant s) (hidle : s.seq = .idle) (hparams : t.params = s.params)
    (hsamples : t.nSamples ≠ 0)
    (hcal : t.calValid = true → Machine.calibrationLegal t.calMinX t.calMaxX t.calMinY t.calMaxY = true)
    (hbus : KeepsDiscipline s t) (hcuts : ∃ l, t.trace = s.trace ++ l ∧ CutsReach s t l)
    (hres : (t.seq = .idle ∧ ResultsLegal t) ∨ Hung s t) : Invariant t := by
  have hlegal : ResultsLegal t := by
    rcases hres with ⟨_, h⟩ | h
    · exact h
    · exact ResultsLegal.of_same ⟨hs.statusLegal, hs.resultsZero, hs.lastResponse, hs.exactResult⟩ h.results
  refine ⟨by rw [hparams]; exact hs.paramsLegal, hsamples, hcal, ?_, hlegal.statusLegal, hlegal.resultsZero,
    hlegal.lastResponse, hlegal.exactResult, ?_, fun hbusy => ?_⟩
  · obtain ⟨l, sc, htrace, hrun, hfits, hsc⟩ := hbus
    refine t.busSafe_iff.2 ⟨sc, ?_, hfits, hsc⟩
    rw [hparams, htrace, Scope.run_append, (hs.run_closed hidle).1]
    exact hrun
  · obtain ⟨l, htrace, cuts, hcutPrefixes, hfit⟩ := hcuts
    rw [CutsFit, htrace, hcutPrefixes, List.filterMap_append]
    exact List.rel_append hs.cutsFit hfit
  · rcases hres with ⟨h, _⟩ | h
    · exact absurd h hbusy
    · exact h.call

theorem one_le_chunkMax_of_legal {p : Params} (h : p.legal = true) : 1 ≤ p.chunkMax := by
  simp only [Params.legal, Bool.and_eq_true, decide_eq_true_eq] at h
  obtain ⟨⟨⟨⟨⟨⟨hchunk, -⟩, -⟩, -⟩, -⟩, -⟩, -⟩ := h
  exact hchunk

theorem exec_keeps_invariant {i : Instr} {s t : State} (hs : Invariant s) (hidle : s.seq = .idle)
    (h : exec i s = .next t) : Invariant t := by
  have hbus := exec_keepsDiscipline (one_le_chunkMax_of_legal hs.paramsLegal) (hs.run_closed hidle).2 h
  obtain ⟨l, htrace, hcuts, _⟩ := exec_reach h
  exact hs.of_step hidle (exec_oneWriter h).params_eq (exec_samplesLegal hs.samplesLegal h)
    (exec_calibrationLegal hs.calibrationLegal h) hbus ⟨l, htrace, hcuts⟩ (exec_ends_or_hangs h)

theorem Invariant.answer {s : State} (hs : Invariant s) (hidle : s.seq = .idle) (k : Kind) : Invariant (s.answer k) :=
  hs.of_step hidle rfl hs.samplesLegal hs.calibrationLegal (.of_same (hs.run_closed hidle).2 rfl rfl)
    ⟨[], by simp, .same rfl⟩ (.inl ⟨rfl, .answer s k⟩)

/-- The requests the host will issue are no part of the invariant. -/
theorem Invariant.withRequests {s : State} (hs : Invariant s) (rest : List (List Byte)) :
    Invariant { s with env.requests := rest } :=
  { hs with }

/-- Settles O46: waiting changes nothing, and both an answer to illegal bytes and `exec` keep the invariant. -/
theorem stepKeepsTheInvariant : Obligations.StepKeepsTheInvariant := by
  intro s t hs h
  obtain ⟨hidle, rfl | ⟨rest, rfl | ⟨i, hexec⟩⟩⟩ := step_cases h
  · exact hs
  · exact (hs.withRequests rest).answer hidle _
  · exact exec_keeps_invariant (hs.withRequests rest) hidle hexec

end Sys2Proof.Machine
end

section
/-! PROOFS. Family 20_memory: one select scope per request, and which byte stream a request adds to. -/

namespace Sys2Proof.Machine

/-! ### One select scope per request (20_memory R62) -/

/-- The events that move a select line. -/
def Event.movesSelect : Event → Bool
  | .sel _ | .desel _ => true
  | _ => false

theorem Event.movesSelect_of_inner {e : Event} (h : e.inner = true) : e.movesSelect = false := by
  cases e with
  | sel | desel => cases h
  | _ => rfl

theorem Event.movesSelect_of_sampling {e : Event} (h : e.sampling = true) : e.movesSelect = false := by
  cases e with
  | sel | desel => cases h
  | _ => rfl

/-- From s to t exactly one scope was opened, on `dev`, and it was closed. -/
def OneScope (dev : Dev) (s t : State) : Prop :=
  ∃ l, t.trace = s.trace ++ (.sel dev :: l ++ [.desel dev]) ∧ (∀ d, .sel d ∉ l) ∧ (∀ d, .desel d ∉ l)

theorem OneScope.of_trace {dev : Dev} {s t : State} {l : List Event} (hl : ∀ e ∈ l, e.movesSelect = false)
    (h : t.trace = s.trace ++ (.sel dev :: l ++ [.desel dev])) : OneScope dev s t :=
  ⟨l, h, fun _ hd => Bool.noConfusion (hl _ hd), fun _ hd => Bool.noConfusion (hl _ hd)⟩

theorem ne_touchRead_of_displayPlan {i : Instr} {s : State} {plan : List Event} (h : s.displayPlan i = some plan) :
    i ≠ .touchRead := by
  rintro rfl
  cases h

theorem usesBus_of_displayPlan {i : Instr} {s : State} {plan : List Event} (h : s.displayPlan i = some plan) :
    s.usesBus i = true := by
  rw [State.usesBus, if_neg (ne_touchRead_of_displayPlan h), h]
  rfl

/-- A request that ended either stayed off the bus or made one scope on its device. -/
theorem exec_oneScope {i : Instr} {s t : State} (h : exec i s = .next t) (hidle : t.seq = .idle) :
    (s.usesBus i = false ∧ t.trace = s.trace) ∨
    (s.usesBus i = true ∧ OneScope (if i = .touchRead then .touch else .disp) s t) := by
  cases exec_shape h with
  | direct k u ends noBus _ _ _ writes =>
    subst ends
    refine .inl ⟨noBus, ?_⟩
    rcases writes with rfl | ⟨w, h', rot, rfl, _, _, rfl⟩ | ⟨a, b, c, d, e, f, rfl, _, _, rfl⟩ |
      ⟨n, rfl, _, _, rfl⟩ <;> rfl
  | dispOk plan planned ends =>
    subst ends
    refine .inr ⟨usesBus_of_displayPlan planned, ?_⟩
    rw [if_neg (ne_touchRead_of_displayPlan planned)]
    refine .of_trace (fun e he => Event.movesSelect_of_inner (displayPlan_inner planned e he)) ?_
    rw [endDisplay_trace, State.play_trace, State.begin_trace]
  | dispFail pre b post planned ends =>
    subst ends
    refine .inr ⟨usesBus_of_displayPlan planned, ?_⟩
    rw [if_neg (ne_touchRead_of_displayPlan planned)]
    have hpre := (List.forall_mem_append.1 (displayPlan_inner planned)).1
    refine .of_trace (l := pre ++ [.txFail b]) (List.forall_mem_append.2
      ⟨fun e he => Event.movesSelect_of_inner (hpre e he), by simp [Event.movesSelect]⟩) ?_
    simp
  | dispHung l c plan planned made hangs ends =>
    subst ends
    exact absurd hidle (Hung.play c hangs).busy
  | touchDone u l req valid ends _ sampling _ reach =>
    subst req ends
    refine .inr ⟨valid, .of_trace (fun e he => Event.movesSelect_of_sampling (sampling e he)) ?_⟩
    exact (finishTouch_onlyAnswers u).trace_eq.trans reach.trace_eq
  | touchFail u l req valid ends _ sampling _ reach =>
    subst req ends
    exact .inr ⟨valid, .of_trace (fun e he => Event.movesSelect_of_sampling (sampling e he)) reach.trace_eq⟩
  | touchHung u c req ends hangs reach =>
    subst req ends
    rcases reach with ⟨_, hr⟩ | ⟨l, _, _, _, _, _, hr⟩ <;> exact absurd hidle (Hung.touch c hangs hr).busy

/-- Settles O49: `exec_oneScope`, whose two cases `usesBus` tells apart. -/
theorem oneScopePerRequest : Obligations.OneScopePerRequest := by
  intro i s t h hidle
  rcases exec_oneScope h hidle with ⟨noBus, htrace⟩ | ⟨bus, hscope⟩
  · exact ⟨fun _ => htrace, fun bus => absurd (noBus.symm.trans bus) Bool.false_ne_true⟩
  · exact ⟨fun noBus => absurd (noBus.symm.trans bus) Bool.false_ne_true, fun _ => hscope⟩

/-! ### A request sends nothing to the controller it does not select (20_memory R52) -/

/-- Settles O54: a controller that is deselected at first and never selected receives nothing. -/
theorem eachRequestReachesOneController : Obligations.EachRequestReachesOneController := by
  intro i s t hdisp htouch h
  obtain ⟨l, htrace, ⟨cuts, hcuts, hfit⟩, noTouch, noDisp⟩ := exec_reach h
  exact ⟨l, cuts, htrace, hcuts, hfit, fun hi => touchStream_deselected l (noTouch hi) s.lines cuts htouch,
    fun hi => displayStream_deselected l (noDisp hi) s.lines cuts hdisp⟩

end Sys2Proof.Machine
end

section
/-! PROOFS. Family 20_memory: a touch read with all its samples, and the touch byte stream it adds. -/

namespace Sys2Proof.Machine

/-! ### A touch read whose loop ends (44_touch R170) -/

/-- The state in which the sampling loop starts: the sums cleared and the touch controller selected. -/
def State.touchStart (s : State) : State := (s.begin .touchRead).clearSums.emit (.sel .touch)

@[simp] theorem State.touchStart_trace (s : State) : s.touchStart.trace = s.trace ++ [.sel .touch] := rfl
@[simp] theorem State.touchStart_sampleEvents (s : State) (i : Nat) :
    s.touchStart.sampleEvents i = s.sampleEvents i := rfl

theorem AllCallsReturn_touchStart {s : State} (h : s.AllCallsReturn) : s.touchStart.AllCallsReturn :=
  AllCallsReturn_emit (s := (s.begin .touchRead).clearSums) _ h

/-- A loop that ended well is followed by the deselect, the gate and the arithmetic. -/
theorem exec_touchRead_of_loop_ok {s u : State} (hv : s.calValid = true) (hr : s.AllCallsReturn)
    (hloop : sampleLoop s.nSamples.toNat s.touchStart = .ok () u) (hru : u.AllCallsReturn) :
    exec .touchRead s = .next (finishTouch (u.emit (.desel .touch))) := by
  have hcall : (s.begin .touchRead).clearSums.callReturns = true := callReturns_of_all hr
  rw [State.touchStart] at hloop
  simp [exec, execTouchRead, hv, inScope, assertSelect, deassertSelect, simpleCall, hcall, hloop,
    callReturns_of_all hru, conclude]

/-- A touch read pressed at all its checks and without a failure collects all its samples. -/
theorem exec_touchRead_collect {s : State} (hv : s.calValid = true) (hr : s.AllCallsReturn)
    (hp : s.PressedFor s.nSamples.toNat) (ht : s.TransfersOk (4 * s.nSamples.toNat)) :
    exec .touchRead s =
      .next (finishTouch ((State.collect s.nSamples.toNat s.touchStart).emit (.desel .touch))) :=
  exec_touchRead_of_loop_ok hv hr (sampleLoop_collect _ 0 s.touchStart (AllCallsReturn_touchStart hr) hp ht)
    (AllCallsReturn_collect _ (AllCallsReturn_touchStart hr))

theorem finishTouch_collect_trace (n : Nat) (s : State) :
    (finishTouch ((State.collect n s.touchStart).emit (.desel .touch))).trace =
      s.trace ++ (.sel .touch :: (List.range n).flatMap s.sampleEvents ++ [.desel .touch]) := by
  rw [(finishTouch_onlyAnswers _).trace_eq, State.emit_trace, collect_trace, State.touchStart_trace,
    funext s.touchStart_sampleEvents]
  simp

/-! ### Delivered prefixes of events that do not fail (20_memory R65) -/

/-- A request none of whose transfers failed records no delivered prefix. -/
theorem exec_cutPrefixes_of_no_failure {i : Instr} {s t : State} {l : List Event} (h : exec i s = .next t)
    (htrace : t.trace = s.trace ++ l) (hl : ∀ e ∈ l, e.failedBytes = none) :
    t.cutPrefixes = s.cutPrefixes := by
  obtain ⟨l', htrace', ⟨cuts, hcuts, hfit⟩, -⟩ := exec_reach h
  obtain rfl : l' = l := List.append_cancel_left (htrace'.symm.trans htrace)
  rw [CutsFit, List.filterMap_eq_nil_iff.2 hl, List.forall₂_nil_right_iff] at hfit
  rw [hcuts, hfit, List.append_nil]

theorem sampleEvents_failedBytes (s : State) (i : Nat) : ∀ e ∈ s.sampleEvents i, e.failedBytes = none := by
  simp [State.sampleEvents, State.axisEvents, wireAxis, Event.failedBytes]

theorem touch_scope_failedBytes (s : State) (l : List Nat) :
    ∀ e ∈ .sel .touch :: l.flatMap s.sampleEvents ++ [.desel .touch], e.failedBytes = none := by
  have hsamples : ∀ e ∈ l.flatMap s.sampleEvents, e.failedBytes = none := by
    intro e he
    obtain ⟨i, _, he⟩ := List.mem_flatMap.1 he
    exact sampleEvents_failedBytes s i e he
  exact List.forall_mem_cons.2 ⟨rfl, List.forall_mem_append.2 ⟨hsamples, List.forall_mem_singleton.2 rfl⟩⟩

/-! ### The touch byte stream of samples (20_memory R52, 44_touch R174) -/

/-- What an axis read adds to the touch byte stream, with the received bytes number k and k + 1. -/
def State.axisItems (s : State) (cmd : Byte) (k : Nat) : List TouchItem :=
  [.received cmd, .received 0x00, .received 0x00, .answered (s.receivedAt k), .answered (s.receivedAt (k + 1))]

/-- What sample i adds to it. -/
def State.sampleItems (s : State) (i : Nat) : List TouchItem :=
  s.axisItems s.firstCmd (4 * i) ++ s.axisItems s.secondCmd (4 * i + 2)

theorem sampleEvents_lines (s : State) (i : Nat) (a : Lines) : (s.sampleEvents i).foldl Lines.apply a = a := rfl

theorem sampleEvents_cutsAfter (s : State) (i : Nat) (cuts : List (List Byte)) :
    (s.sampleEvents i).foldl Event.cutsAfter cuts = cuts := rfl

theorem touchStream_sampleEvents (s : State) (i : Nat) {a : Lines} (ha : a.csTouch = .asserted)
    (cuts : List (List Byte)) : touchStream a cuts (s.sampleEvents i) = s.sampleItems i := by
  simp [State.sampleEvents, State.axisEvents, wireAxis, touchStream, Lines.apply, ha, Event.delivers, Event.answers,
    State.sampleItems, State.axisItems]

theorem touchStream_samples (s : State) {a : Lines} (ha : a.csTouch = .asserted) (cuts : List (List Byte))
    (rest : List Event) : ∀ l : List Nat,
    touchStream a cuts (l.flatMap s.sampleEvents ++ rest) = l.flatMap s.sampleItems ++ touchStream a cuts rest
  | [] => rfl
  | i :: l => by
    rw [List.flatMap_cons, List.append_assoc, touchStream_append, sampleEvents_lines, sampleEvents_cutsAfter,
      touchStream_sampleEvents s i ha, touchStream_samples s ha cuts rest l, List.flatMap_cons, List.append_assoc]

/-- The select and the deselect of a scope add nothing. -/
theorem touchStream_touch_scope (s : State) (a : Lines) (l : List Nat) :
    touchStream a [] (.sel .touch :: l.flatMap s.sampleEvents ++ [.desel .touch]) = l.flatMap s.sampleItems := by
  have hsel : touchStream a [] (.sel .touch :: (l.flatMap s.sampleEvents ++ [.desel .touch])) =
      touchStream { a with csTouch := .asserted } [] (l.flatMap s.sampleEvents ++ [.desel .touch]) := by
    simp [touchStream, Event.delivers, Event.answers, Event.cutsAfter, Event.failedBytes, Lines.apply]
  have hdesel : touchStream { a with csTouch := .asserted } [] [.desel .touch] = [] := rfl
  rw [List.cons_append, hsel, touchStream_samples s rfl, hdesel, List.append_nil]

/-- Settles O56: the loop collects all N samples, and each adds its own items. -/
theorem touchReadReachesTheTouchController : Obligations.TouchReadReachesTheTouchController := by
  intro s hv hr hp ht
  have hexec := exec_touchRead_collect hv hr hp ht
  have htrace := finishTouch_collect_trace s.nSamples.toNat s
  exact ⟨_, _, hexec, htrace, exec_cutPrefixes_of_no_failure hexec htrace (touch_scope_failedBytes s _),
    touchStream_touch_scope s s.lines _⟩

end Sys2Proof.Machine
end

section
/-! PROOFS. Family 30_encoding: the decoder answers a request just when the bytes spell it. -/

namespace Sys2Proof

/-! ### Spellings (30_encoding R79 to R85) -/

/-- The length field of the request's format can state the length of its bytes (30_encoding R85). -/
def Instr.LengthFits : Instr → Prop
  | .frame _ payload => payload.length < 2 ^ 32
  | .writeString _ _ _ _ _ text => text.length < 2 ^ 16
  | _ => True

/-- `bytes` are the encoding of a request that keeps the limits of 30_encoding R83 and of its length field. -/
structure Spells (p : Params) (i : Instr) (bytes : List Byte) : Prop where
  encode_eq : encode i = bytes
  wellFormed : i.wellFormed p = true
  lengthFits : i.LengthFits

theorem Spells.of_fields {p : Params} {i : Instr} {opcode : Byte} {rest : List Byte}
    (hop : opcode.toNat = i.opcode.toNat) (hrest : i.fieldBytes = rest) (hlimit : i.wellFormed p = true)
    (hfits : i.LengthFits) : Spells p i (opcode :: rest) where
  encode_eq := by rw [encode, hrest, BitVec.eq_of_toNat_eq hop]
  wellFormed := hlimit
  lengthFits := hfits

/-- The limits of legal parameters are within the length fields (00_scope R6). -/
theorem lengthFits_of_legal {p : Params} {i : Instr} (hp : p.legal = true) (hi : i.wellFormed p = true) :
    i.LengthFits := by
  simp only [Params.legal, Bool.and_eq_true, decide_eq_true_eq] at hp
  obtain ⟨⟨_, hpayload⟩, htext⟩ := hp
  cases i with
  | frame cmd payload => exact (of_decide_eq_true hi).trans_lt hpayload
  | writeString x y font fg bg text => exact (of_decide_eq_true hi).trans_lt htext
  | _ => trivial

/-! ### What the fields of each format decode to (30_encoding R80, R81) -/

theorem decodeCfgSurface_eq_ok_iff {rest : List Byte} {i : Instr} :
    decodeCfgSurface rest = .ok i ↔ ∃ w h rot, i = .cfgSurface w h rot ∧ i.fieldBytes = rest := by
  constructor
  · intro hdec
    unfold decodeCfgSurface at hdec
    split at hdec <;> cases hdec
    exact ⟨_, _, _, rfl, by simp [Instr.fieldBytes, u16Bytes_be16]⟩
  · rintro ⟨w, h, rot, rfl, rfl⟩
    simp [decodeCfgSurface, Instr.fieldBytes, u16Bytes, be16_hi_lo]

theorem decodeCfgCal_eq_ok_iff {rest : List Byte} {i : Instr} :
    decodeCfgCal rest = .ok i ↔ ∃ a b c d e f, i = .cfgCal a b c d e f ∧ i.fieldBytes = rest := by
  constructor
  · intro hdec
    unfold decodeCfgCal at hdec
    split at hdec <;> cases hdec
    exact ⟨_, _, _, _, _, _, rfl, by simp [Instr.fieldBytes, u16Bytes_be16]⟩
  · rintro ⟨a, b, c, d, e, f, rfl, rfl⟩
    simp [decodeCfgCal, Instr.fieldBytes, u16Bytes, be16_hi_lo]

theorem decodeCfgSamples_eq_ok_iff {rest : List Byte} {i : Instr} :
    decodeCfgSamples rest = .ok i ↔ ∃ n, i = .cfgSamples n ∧ i.fieldBytes = rest := by
  constructor
  · intro hdec
    unfold decodeCfgSamples at hdec
    split at hdec <;> cases hdec
    exact ⟨_, rfl, by simp [Instr.fieldBytes, u16Bytes_be16]⟩
  · rintro ⟨n, rfl, rfl⟩
    simp [decodeCfgSamples, Instr.fieldBytes, u16Bytes, be16_hi_lo]

theorem decodeFillRect_eq_ok_iff {rest : List Byte} {i : Instr} :
    decodeFillRect rest = .ok i ↔ ∃ x y w h c, i = .fillRect x y w h c ∧ i.fieldBytes = rest := by
  constructor
  · intro hdec
    unfold decodeFillRect at hdec
    split at hdec <;> cases hdec
    exact ⟨_, _, _, _, _, rfl, by simp [Instr.fieldBytes, u16Bytes_be16]⟩
  · rintro ⟨x, y, w, h, c, rfl, rfl⟩
    simp [decodeFillRect, Instr.fieldBytes, u16Bytes, be16_hi_lo]

theorem decodeFillScreen_eq_ok_iff {rest : List Byte} {i : Instr} :
    decodeFillScreen rest = .ok i ↔ ∃ c, i = .fillScreen c ∧ i.fieldBytes = rest := by
  constructor
  · intro hdec
    unfold decodeFillScreen at hdec
    split at hdec <;> cases hdec
    exact ⟨_, rfl, by simp [Instr.fieldBytes, u16Bytes_be16]⟩
  · rintro ⟨c, rfl, rfl⟩
    simp [decodeFillScreen, Instr.fieldBytes, u16Bytes, be16_hi_lo]

theorem decodeNone_eq_ok_iff {rest : List Byte} {i j : Instr} :
    decodeNone j rest = .ok i ↔ i = j ∧ [] = rest := by
  cases rest <;> simp [decodeNone, eq_comm]

theorem decodeFrame_eq_ok_iff {p : Params} {rest : List Byte} {i : Instr} :
    decodeFrame p rest = .ok i ↔ ∃ cmd payload, i = .frame cmd payload ∧ i.fieldBytes = rest ∧
      payload.length ≤ p.payloadMax ∧ payload.length < 2 ^ 32 := by
  constructor
  · intro hdec
    unfold decodeFrame at hdec
    split at hdec
    · next cmd l3 l2 l1 l0 payload =>
      dsimp only at hdec
      split_ifs at hdec with hover hlen
      cases hdec
      refine ⟨cmd, payload, rfl, ?_, hlen ▸ not_lt.1 hover, hlen ▸ BitVec.isLt _⟩
      simp [Instr.fieldBytes, hlen, u32Bytes_be32]
    · cases hdec
  · rintro ⟨cmd, payload, rfl, rfl, hlimit, hfits⟩
    have hlen : payload.length % 4294967296 = payload.length := Nat.mod_eq_of_lt hfits
    simp [decodeFrame, Instr.fieldBytes, u32Bytes, be32_bytes, hlen, hlimit]

theorem decodeWriteString_eq_ok_iff {p : Params} {rest : List Byte} {i : Instr} :
    decodeWriteString p rest = .ok i ↔ ∃ x y font fg bg text, i = .writeString x y font fg bg text ∧
      i.fieldBytes = rest ∧ text.length ≤ p.textMax ∧ text.length < 2 ^ 16 := by
  constructor
  · intro hdec
    unfold decodeWriteString at hdec
    split at hdec
    · next x1 x0 y1 y0 font f1 f0 b1 b0 l1 l0 text =>
      dsimp only at hdec
      split_ifs at hdec with hover hlen
      cases hdec
      refine ⟨_, _, font, _, _, text, rfl, ?_, hlen ▸ not_lt.1 hover, hlen ▸ BitVec.isLt _⟩
      simp [Instr.fieldBytes, hlen, u16Bytes_be16]
    · cases hdec
  · rintro ⟨x, y, font, fg, bg, text, rfl, rfl, hlimit, hfits⟩
    have hlen : text.length % 65536 = text.length := Nat.mod_eq_of_lt hfits
    simp [decodeWriteString, Instr.fieldBytes, u16Bytes, be16_hi_lo, hlen, hlimit]

/-! ### The decoder reads just the spellings -/

theorem spells_of_decode {p : Params} {bytes : List Byte} {i : Instr} (hdec : decode p bytes = .ok i) :
    Spells p i bytes := by
  cases bytes with
  | nil => cases hdec
  | cons opcode rest =>
    simp only [decode] at hdec
    split at hdec
    · next hop =>
      obtain ⟨w, h, rot, rfl, hrest⟩ := decodeCfgSurface_eq_ok_iff.1 hdec
      exact .of_fields hop hrest rfl trivial
    · next hop =>
      obtain ⟨a, b, c, d, e, f, rfl, hrest⟩ := decodeCfgCal_eq_ok_iff.1 hdec
      exact .of_fields hop hrest rfl trivial
    · next hop =>
      obtain ⟨n, rfl, hrest⟩ := decodeCfgSamples_eq_ok_iff.1 hdec
      exact .of_fields hop hrest rfl trivial
    · next hop =>
      obtain ⟨rfl, hrest⟩ := decodeNone_eq_ok_iff.1 hdec
      exact .of_fields hop hrest rfl trivial
    · next hop =>
      obtain ⟨cmd, payload, rfl, hrest, hlimit, hfits⟩ := decodeFrame_eq_ok_iff.1 hdec
      exact .of_fields hop hrest (decide_eq_true hlimit) hfits
    · next hop =>
      obtain ⟨x, y, w, h, c, rfl, hrest⟩ := decodeFillRect_eq_ok_iff.1 hdec
      exact .of_fields hop hrest rfl trivial
    · next hop =>
      obtain ⟨c, rfl, hrest⟩ := decodeFillScreen_eq_ok_iff.1 hdec
      exact .of_fields hop hrest rfl trivial
    · next hop =>
      obtain ⟨rfl, hrest⟩ := decodeNone_eq_ok_iff.1 hdec
      exact .of_fields hop hrest rfl trivial
    · next hop =>
      obtain ⟨x, y, font, fg, bg, text, rfl, hrest, hlimit, hfits⟩ := decodeWriteString_eq_ok_iff.1 hdec
      exact .of_fields hop hrest (decide_eq_true hlimit) hfits
    · next hop =>
      obtain ⟨rfl, hrest⟩ := decodeNone_eq_ok_iff.1 hdec
      exact .of_fields hop hrest rfl trivial
    · cases hdec

theorem decode_encode {p : Params} {i : Instr} (hlimit : i.wellFormed p = true) (hfits : i.LengthFits) :
    decode p (encode i) = .ok i := by
  cases i with
  | cfgSurface w h rot => exact decodeCfgSurface_eq_ok_iff.2 ⟨w, h, rot, rfl, rfl⟩
  | cfgCal a b c d e f => exact decodeCfgCal_eq_ok_iff.2 ⟨a, b, c, d, e, f, rfl, rfl⟩
  | cfgSamples n => exact decodeCfgSamples_eq_ok_iff.2 ⟨n, rfl, rfl⟩
  | frame cmd payload =>
    exact decodeFrame_eq_ok_iff.2 ⟨cmd, payload, rfl, rfl, of_decide_eq_true hlimit, hfits⟩
  | fillRect x y w h c => exact decodeFillRect_eq_ok_iff.2 ⟨x, y, w, h, c, rfl, rfl⟩
  | fillScreen c => exact decodeFillScreen_eq_ok_iff.2 ⟨c, rfl, rfl⟩
  | writeString x y font fg bg text =>
    exact decodeWriteString_eq_ok_iff.2 ⟨x, y, font, fg, bg, text, rfl, rfl, of_decide_eq_true hlimit, hfits⟩
  | init | clear | touchRead => exact decodeNone_eq_ok_iff.2 ⟨rfl, rfl⟩

theorem decode_eq_ok_iff {p : Params} {bytes : List Byte} {i : Instr} :
    decode p bytes = .ok i ↔ Spells p i bytes := by
  refine ⟨spells_of_decode, ?_⟩
  rintro ⟨rfl, hlimit, hfits⟩
  exact decode_encode hlimit hfits

/-- Settles O1: legal limits are within the length fields, so each well-formed request spells itself. -/
theorem decodeOfEncodeIsTheRequest : Obligations.DecodeOfEncodeIsTheRequest := by
  intro p i hp hi
  exact decode_encode hi (lengthFits_of_legal hp hi)

/-- The length of every encoding: the family OpcodeByte, put together. -/
theorem encode_length (i : Instr) : (encode i).length = i.requestLength := by
  cases i with
  | cfgSurface w h rot => exact (Laws.OpcodeByte.cfgSurface w h rot).2
  | cfgCal a b c d e f => exact (Laws.OpcodeByte.cfgCal a b c d e f).2
  | cfgSamples n => exact (Laws.OpcodeByte.cfgSamples n).2
  | init => exact Laws.OpcodeByte.init.2
  | frame cmd payload => exact (Laws.OpcodeByte.frame cmd payload).2
  | fillRect x y w h c => exact (Laws.OpcodeByte.fillRect x y w h c).2
  | fillScreen c => exact (Laws.OpcodeByte.fillScreen c).2
  | clear => exact Laws.OpcodeByte.clear.2
  | writeString x y font fg bg text => exact (Laws.OpcodeByte.writeString x y font fg bg text).2
  | touchRead => exact Laws.OpcodeByte.touchRead.2

/-- Settles O2: bytes that decode spell the request, and every encoding has its format's length. -/
theorem decodedBytesAreTheEncoding : Obligations.DecodedBytesAreTheEncoding := by
  intro p bytes i hdec
  obtain ⟨rfl, hlimit, _⟩ := decode_eq_ok_iff.1 hdec
  exact ⟨rfl, encode_length i, hlimit⟩

/-- Settles O5: each written-out list is the encoding of its request, which keeps the limits. -/
theorem writtenOutWordsDecode : Obligations.WrittenOutWordsDecode := by
  intro p hpayload htext
  exact ⟨decode_eq_ok_iff.2 ⟨rfl, rfl, trivial⟩, decode_eq_ok_iff.2 ⟨rfl, rfl, trivial⟩,
    decode_eq_ok_iff.2 ⟨rfl, rfl, trivial⟩,
    decode_eq_ok_iff.2 ⟨rfl, decide_eq_true hpayload, by norm_num [Instr.LengthFits]⟩,
    decode_eq_ok_iff.2 ⟨rfl, rfl, trivial⟩,
    decode_eq_ok_iff.2 ⟨rfl, decide_eq_true htext, by norm_num [Instr.LengthFits]⟩,
    decode_eq_ok_iff.2 ⟨rfl, rfl, trivial⟩⟩

end Sys2Proof
end

section
/-! PROOFS. Family 30_encoding: which bytes R83 refuses, and the answer they get. -/

namespace Sys2Proof

/-! ### The length a request states (30_encoding R79, R80) -/

theorem statedLength_encode {i : Instr} (hfits : i.LengthFits) : statedLength (encode i) = i.requestLength := by
  cases i with
  | frame cmd payload =>
    calc statedLength (encode (.frame cmd payload))
        = 6 + (BitVec.ofNat 32 payload.length).toNat := congrArg (6 + ·.toNat) (be32_bytes _)
      _ = 6 + payload.length := by rw [BitVec.toNat_ofNat, Nat.mod_eq_of_lt hfits]
  | writeString x y font fg bg text =>
    calc statedLength (encode (.writeString x y font fg bg text))
        = 12 + (BitVec.ofNat 16 text.length).toNat := congrArg (12 + ·.toNat) (be16_hi_lo _)
      _ = 12 + text.length := by rw [BitVec.toNat_ofNat, Nat.mod_eq_of_lt hfits]
  | _ => rfl

theorem statedLength_frame (rest : List Byte) : statedLength (0x20 :: rest) =
    6 + (be32 (rest.getD 1 0) (rest.getD 2 0) (rest.getD 3 0) (rest.getD 4 0)).toNat := rfl

theorem statedLength_writeString (rest : List Byte) : statedLength (0x40 :: rest) =
    12 + (be16 (rest.getD 9 0) (rest.getD 10 0)).toNat := rfl

/-! ### Fields of the stated length decode (30_encoding R83, R84) -/

theorem exists_decodeFrame {p : Params} {rest : List Byte} (hlen : rest.length + 1 = statedLength (0x20 :: rest))
    (hlimit : statedLength (0x20 :: rest) - 6 ≤ p.payloadMax) : ∃ i, decodeFrame p rest = .ok i := by
  rw [statedLength_frame] at hlen hlimit
  obtain ⟨fixed, payload, hfixed, rfl⟩ : ∃ fixed payload, fixed.length = 5 ∧ rest = fixed ++ payload :=
    ⟨rest.take 5, rest.drop 5, List.length_take_of_le (by omega), (List.take_append_drop 5 rest).symm⟩
  match fixed, hfixed with
  | [cmd, l3, l2, l1, l0], _ =>
    have hstated : payload.length + 6 = 6 + (be32 l3 l2 l1 l0).toNat := hlen
    have hmax : 6 + (be32 l3 l2 l1 l0).toNat - 6 ≤ p.payloadMax := hlimit
    have hpayload : payload.length = (be32 l3 l2 l1 l0).toNat := by omega
    have hunder : ¬ p.payloadMax < (be32 l3 l2 l1 l0).toNat := by omega
    exact ⟨.frame cmd payload, (if_neg hunder).trans (if_pos hpayload)⟩

theorem exists_decodeWriteString {p : Params} {rest : List Byte}
    (hlen : rest.length + 1 = statedLength (0x40 :: rest))
    (hlimit : statedLength (0x40 :: rest) - 12 ≤ p.textMax) : ∃ i, decodeWriteString p rest = .ok i := by
  rw [statedLength_writeString] at hlen hlimit
  obtain ⟨fixed, text, hfixed, rfl⟩ : ∃ fixed text, fixed.length = 11 ∧ rest = fixed ++ text :=
    ⟨rest.take 11, rest.drop 11, List.length_take_of_le (by omega), (List.take_append_drop 11 rest).symm⟩
  match fixed, hfixed with
  | [x1, x0, y1, y0, font, f1, f0, b1, b0, l1, l0], _ =>
    have hstated : text.length + 12 = 12 + (be16 l1 l0).toNat := hlen
    have hmax : 12 + (be16 l1 l0).toNat - 12 ≤ p.textMax := hlimit
    have htext : text.length = (be16 l1 l0).toNat := by omega
    have hunder : ¬ p.textMax < (be16 l1 l0).toNat := by omega
    exact ⟨.writeString (be16 x1 x0) (be16 y1 y0) font (be16 f1 f0) (be16 b1 b0) text,
      (if_neg hunder).trans (if_pos htext)⟩

/-- Settles O4: with the opcode known, the stated length gives the fields their shape. -/
theorem otherBytesDecode : Obligations.OtherBytesDecode := by
  intro p bytes hne hop hlen hframe htext
  cases bytes with
  | nil => exact absurd rfl hne
  | cons opcode rest =>
    simp only [List.headD_cons, List.mem_cons, List.not_mem_nil, or_false] at hop
    rcases hop with rfl | rfl | rfl | rfl | rfl | rfl | rfl | rfl | rfl | rfl
    · match rest, Nat.succ.inj hlen with
      | [_, _, _, _, _], _ => exact ⟨_, rfl⟩
    · match rest, Nat.succ.inj hlen with
      | [_, _, _, _, _, _, _, _, _, _, _, _], _ => exact ⟨_, rfl⟩
    · match rest, Nat.succ.inj hlen with
      | [_, _], _ => exact ⟨_, rfl⟩
    · obtain rfl : rest = [] := List.eq_nil_of_length_eq_zero (Nat.succ.inj hlen)
      exact ⟨.init, rfl⟩
    · exact exists_decodeFrame hlen (hframe rfl)
    · match rest, Nat.succ.inj hlen with
      | [_, _, _, _, _, _, _, _, _, _], _ => exact ⟨_, rfl⟩
    · match rest, Nat.succ.inj hlen with
      | [_, _], _ => exact ⟨_, rfl⟩
    · obtain rfl : rest = [] := List.eq_nil_of_length_eq_zero (Nat.succ.inj hlen)
      exact ⟨.clear, rfl⟩
    · exact exists_decodeWriteString hlen (htext rfl)
    · obtain rfl : rest = [] := List.eq_nil_of_length_eq_zero (Nat.succ.inj hlen)
      exact ⟨.touchRead, rfl⟩

/-! ### A spelling has none of the causes of 30_encoding R83 -/

theorem Instr.opcode_mem (i : Instr) :
    i.opcode ∈ ([0x01, 0x02, 0x03, 0x10, 0x20, 0x30, 0x31, 0x32, 0x40, 0x50] : List Byte) := by
  cases i <;> simp [Instr.opcode]

theorem payload_within_limit {p : Params} {i : Instr} (hop : i.opcode = 0x20) (hlimit : i.wellFormed p = true) :
    i.requestLength - 6 ≤ p.payloadMax := by
  cases i with
  | frame cmd payload => simpa [Instr.requestLength, Instr.wellFormed] using hlimit
  | _ => exact absurd hop (by simp [Instr.opcode])

theorem text_within_limit {p : Params} {i : Instr} (hop : i.opcode = 0x40) (hlimit : i.wellFormed p = true) :
    i.requestLength - 12 ≤ p.textMax := by
  cases i with
  | writeString x y font fg bg text => simpa [Instr.requestLength, Instr.wellFormed] using hlimit
  | _ => exact absurd hop (by simp [Instr.opcode])

end Sys2Proof

namespace Sys2Proof.Machine

/-- Settles O3: bytes with one of the causes spell no request, so the step answers that they are illegal. -/
theorem illegalBytesAreAnsweredErrIllegal : Obligations.IllegalBytesAreAnsweredErrIllegal := by
  intro s bytes rest hidle hreq hcause
  cases hdec : decode s.params bytes with
  | error why => exact ⟨_, step_of_illegal hidle hreq hdec, ⟨rfl, rfl, rfl, rfl, rfl⟩, rfl⟩
  | ok i =>
    obtain ⟨rfl, hlimit, hfits⟩ := decode_eq_ok_iff.1 hdec
    rw [statedLength_encode hfits, encode_length] at hcause
    rcases hcause with hnil | hop | hlen | ⟨hop, hover⟩ | ⟨hop, hover⟩
    · exact absurd hnil (List.cons_ne_nil _ _)
    · exact absurd i.opcode_mem hop
    · exact absurd rfl hlen
    · exact absurd hover (not_lt.2 (payload_within_limit hop hlimit))
    · exact absurd hover (not_lt.2 (text_within_limit hop hlimit))

end Sys2Proof.Machine
end

section
/-! PROOFS. Family 30_encoding: the one response of a request that ended. -/

namespace Sys2Proof.Machine

/-- Exactly one response was emitted, the copy of the result registers (30_encoding R92). -/
def AnswersOnce (s t : State) : Prop := t.responses = s.responses ++ [⟨t.status, t.resX, t.resY⟩]

theorem AnswersOnce.answer {s u : State} (h : u.responses = s.responses) (k : Kind) : AnswersOnce s (u.answer k) := by
  rw [AnswersOnce, State.answer_responses, h]
  rfl

theorem AnswersOnce.finishTouch {s u : State} (h : u.responses = s.responses) : AnswersOnce s (finishTouch u) := by
  rcases finishTouch_cases u with hend | ⟨x, y, hend⟩ <;> rw [hend]
  · exact .answer h _
  · rw [AnswersOnce, State.answerTouch_responses, h]
    rfl

theorem AnswersOnce.endDisplay {s u : State} (h : u.responses = s.responses) (i : Instr) :
    AnswersOnce s (endDisplay i u) := by
  unfold Machine.endDisplay
  split
  · exact .answer (u := u.setInitDone) h _
  · exact .answer h _

theorem exec_answersOnce {i : Instr} {s t : State} (h : exec i s = .next t) (hidle : t.seq = .idle) :
    AnswersOnce s t := by
  cases exec_shape h with
  | direct k u ends _ _ _ _ writes =>
    subst ends
    refine .answer ?_ k
    rcases writes with rfl | ⟨w, h', rot, rfl, _, _, rfl⟩ | ⟨a, b, c, d, e, f, rfl, _, _, rfl⟩ |
      ⟨n, rfl, _, _, rfl⟩ <;> rfl
  | dispOk plan _ ends => subst ends; exact .endDisplay (by simp) i
  | dispFail pre b post _ ends => subst ends; exact .answer (by simp) _
  | dispHung l c plan _ _ hangs ends => subst ends; exact absurd hidle (Hung.play c hangs).busy
  | touchDone u l _ _ ends _ _ _ reach => subst ends; exact .finishTouch reach.responses_eq
  | touchFail u l _ _ ends _ _ _ reach => subst ends; exact .answer reach.responses_eq _
  | touchHung u c _ ends hangs reach =>
    subst ends
    rcases reach with ⟨_, hr⟩ | ⟨l, _, _, _, _, _, hr⟩ <;> exact absurd hidle (Hung.touch c hangs hr).busy

/-- Settles O48: `exec_answersOnce`, and the coordinates that legal results have. -/
theorem eachEndedRequestAnswersOnce : Obligations.EachEndedRequestAnswersOnce := by
  intro i s t h hidle
  rcases exec_ends_or_hangs h with ⟨_, legal⟩ | hung
  · exact ⟨exec_answersOnce h hidle, legal.resultsZero, rfl⟩
  · exact absurd hidle hung.busy

end Sys2Proof.Machine
end

section
/-! PROOFS. Family 40_framer: the chunks of `send_data`, and a FRAME that meets no failure. -/

namespace Sys2Proof.Machine

/-! ### Draws and playing events -/

theorem State.TransfersOk.mono {s : State} {m n : Nat} (h : s.TransfersOk n) (hmn : m ≤ n) : s.TransfersOk m :=
  fun k hk => h k (hk.trans_le hmn)

/-- Playing planned events makes one transfer draw per transmit. -/
theorem transferAt_play : ∀ (l : List Event), (∀ e ∈ l, e.planned = true) → ∀ (s : State) (k : Nat),
    (s.play l).transferAt k = s.transferAt (txCount l + k)
  | [], _, s, k => by rw [State.play_nil, show txCount [] = 0 from rfl, Nat.zero_add]
  | e :: l, hl, s, k => by
    obtain ⟨he, hl⟩ := List.forall_mem_cons.1 hl
    rw [State.play_cons, transferAt_play l hl]
    by_cases htx : ∃ b, e = .tx b
    · obtain ⟨b, rfl⟩ := htx
      rw [transferAt_emit_tx, txCount_cons_tx, Nat.add_right_comm]
    · have hne : ∀ b, e ≠ .tx b := fun b hb => htx ⟨b, hb⟩
      rw [transferAt_emit_other s e he hne, txCount_cons_other e l hne]

/-! ### `send_data` without a failure (40_framer R101, R102) -/

theorem sendData_ok {p : List Byte} {s : State} (hr : s.AllCallsReturn)
    (ht : s.TransfersOk (ceilDiv p.length s.params.chunkMax)) :
    sendData p s = .ok () (s.play (wireData s.params.chunkMax p)) := by
  obtain ⟨planned, follows⟩ := sendData_follows s.params p
  rw [follows s rfl, runPlan_ok _ planned s hr (by rwa [txCount_wireData])]

/-- Every chunk but the last is full, and the last holds the rest. -/
theorem chunk_length {c k : Nat} {p x : List Byte} (hc : 1 ≤ c) (h : (chunks c p)[k]? = some x) :
    x.length = if k + 1 < ceilDiv p.length c then c else p.length - c * (ceilDiv p.length c - 1) := by
  obtain ⟨hk, rfl⟩ := chunks_get h
  obtain ⟨covered, started⟩ := ceilDiv_bounds p.length c hc
  rw [List.length_take, List.length_drop]
  split
  case isTrue hnext =>
    have := started (k + 1) hnext
    rw [Nat.succ_mul] at this
    omega
  case isFalse hlast =>
    have hn : ceilDiv p.length c = k + 1 := by omega
    rw [hn, Nat.succ_mul] at covered
    rw [hn, Nat.add_sub_cancel, Nat.mul_comm c k]
    omega

/-- Settles O17: the transmits are those of the chunks, and `chunks` splits the payload greedily. -/
theorem sendDataSplitsIntoChunks : Obligations.SendDataSplitsIntoChunks := by
  intro p s hc hr ht
  refine ⟨_, chunks s.params.chunkMax p, sendData_ok hr ht, State.play_trace _ s, chunks_length _ p,
    chunks_flatten _ p hc, fun k x hx => ?_⟩
  obtain ⟨hpos, hle⟩ := chunks_mem hc x (List.mem_of_getElem? hx)
  rw [chunks_length]
  exact ⟨hpos, chunk_length hc hx, hle, (chunks_get hx).2⟩

/-! ### A FRAME without a failure (40_framer R107, R108) -/

/-- A bound that also covers an empty payload with a chunk limit of 0. -/
theorem txCount_wireFrame_le (c : Nat) (cmd : Byte) (p : List Byte) :
    txCount (wireFrame c cmd p) ≤ 1 + ceilDiv p.length c := by
  by_cases hp : p = []
  · subst hp
    exact Nat.le_add_right 1 _
  · exact (txCount_wireFrame c cmd p (.inr hp)).le

/-- Settles O18: `display_ok` for the plan of a FRAME. -/
theorem frameSendsCommandAndPayload : Obligations.FrameSendsCommandAndPayload := by
  intro cmd payload s hr ht
  have hplan : s.displayPlan (.frame cmd payload) = some (wireFrame s.params.chunkMax cmd payload) := rfl
  obtain ⟨t, hexec, htrace, hans, hframe, hdc, hkeep, -⟩ :=
    display_ok hplan hr (ht.mono (txCount_wireFrame_le _ cmd payload))
  obtain ⟨hrst, hinit⟩ := hkeep (by simp)
  refine ⟨t, hexec, ?_, hans, ?_, hframe, hrst, hinit⟩
  · simpa [wireFrame, wireCmd, wireData] using htrace
  · rw [hdc, wireFrame_lines]

end Sys2Proof.Machine
end

section
/-! PROOFS. Family 40_framer: a listener cannot tell how a payload was split into chunks. -/

namespace Sys2Proof.Machine

/-! ### Event lists a listener cannot tell apart (20_memory R58) -/

/-- From any lines, two event lists show the same and leave the same lines. -/
structure SameOnWire (a b : List Event) : Prop where
  view_eq : ∀ l : Lines, wireView l a = wireView l b
  lines_eq : ∀ l : Lines, a.foldl Lines.apply l = b.foldl Lines.apply l

theorem SameOnWire.refl (a : List Event) : SameOnWire a a := ⟨fun _ => rfl, fun _ => rfl⟩

theorem SameOnWire.symm {a b : List Event} (h : SameOnWire a b) : SameOnWire b a :=
  ⟨fun l => (h.view_eq l).symm, fun l => (h.lines_eq l).symm⟩

theorem SameOnWire.trans {a b c : List Event} (h : SameOnWire a b) (h' : SameOnWire b c) : SameOnWire a c :=
  ⟨fun l => (h.view_eq l).trans (h'.view_eq l), fun l => (h.lines_eq l).trans (h'.lines_eq l)⟩

theorem SameOnWire.append {a a' b b' : List Event} (h : SameOnWire a a') (h' : SameOnWire b b') :
    SameOnWire (a ++ b) (a' ++ b') where
  view_eq l := by rw [wireView_append, wireView_append, h.view_eq, h.lines_eq, h'.view_eq]
  lines_eq l := by rw [List.foldl_append, List.foldl_append, h.lines_eq, h'.lines_eq]

theorem SameOnWire.flatMap {α : Type} {f g : α → List Event} (h : ∀ a, SameOnWire (f a) (g a)) :
    ∀ l : List α, SameOnWire (l.flatMap f) (l.flatMap g)
  | [] => .refl []
  | a :: l => (h a).append (SameOnWire.flatMap h l)

/-! ### Chunks on the wire (40_framer R111) -/

theorem wireView_txs (l : Lines) : ∀ cs : List (List Byte),
    wireView l (cs.map Event.tx) = cs.flatten.map (WireItem.byte · l)
  | [] => rfl
  | c :: cs => by
    rw [List.flatten_cons, List.map_append, ← wireView_txs l cs]
    rfl

/-- `send_data(p)` looks like `Mode(D) Tx(p)`: the chunks concatenate to the payload. -/
theorem wireData_oneShot {c : Nat} (hc : 1 ≤ c) (p : List Byte) :
    SameOnWire (wireData c p) [.mode .data, .tx p] where
  view_eq l := by
    rw [wireData, wireView, wireView_txs, chunks_flatten c p hc]
    simp [wireView, Event.shows]
  lines_eq l := wireData_lines c p l

theorem wireData_sameOnWire {c c' : Nat} (hc : 1 ≤ c) (hc' : 1 ≤ c') (p : List Byte) :
    SameOnWire (wireData c p) (wireData c' p) :=
  (wireData_oneShot hc p).trans (wireData_oneShot hc' p).symm

/-- Two payloads one after the other look like their concatenation. -/
theorem wireData_append_sameOnWire {c : Nat} (hc : 1 ≤ c) (p q : List Byte) :
    SameOnWire (wireData c p ++ wireData c q) (wireData c (p ++ q)) := by
  have oneShot : SameOnWire ([.mode .data, .tx p] ++ [.mode .data, .tx q]) [.mode .data, .tx (p ++ q)] :=
    ⟨fun l => by simp [wireView, Event.shows, Lines.apply], fun _ => rfl⟩
  exact (((wireData_oneShot hc p).append (wireData_oneShot hc q)).trans oneShot).trans
    (wireData_oneShot hc (p ++ q)).symm

/-! ### Mode calls tell the call traces apart -/

theorem modeCount_append (a b : List Event) : modeCount (a ++ b) = modeCount a + modeCount b := by
  simp [modeCount]

theorem modeCount_wireData (c : Nat) (p : List Byte) : modeCount (wireData c p) = 1 := by
  have txs : ∀ l : List (List Byte), modeCount (l.map Event.tx) = 0 := fun l => by simp [modeCount]
  exact congrArg (· + 1) (txs (chunks c p))

theorem wireData_append_ne (c : Nat) (p q : List Byte) : wireData c p ++ wireData c q ≠ wireData c (p ++ q) := by
  intro h
  have := congrArg modeCount h
  simp [modeCount_append, modeCount_wireData] at this

theorem ceilDiv_add_le {c : Nat} (hc : 1 ≤ c) (a b : Nat) : ceilDiv (a + b) c ≤ ceilDiv a c + ceilDiv b c := by
  have ha := (ceilDiv_bounds a c hc).1
  have hb := (ceilDiv_bounds b c hc).1
  by_contra hlt
  have := (ceilDiv_bounds (a + b) c hc).2 _ (Nat.not_le.1 hlt)
  rw [Nat.add_mul] at this
  omega

/-- Settles O20: each `send_data` plays its wire format, and the wire formats look the same. -/
theorem wireViewHidesChunks : Obligations.WireViewHidesChunks := by
  intro p q s s' hc hc' _ hr hr' ht ht'
  have planned := (sendData_follows s.params p).1
  have hsecond : (s.play (wireData s.params.chunkMax p)).TransfersOk
      (ceilDiv q.length (s.play (wireData s.params.chunkMax p)).params.chunkMax) := by
    intro k hk
    rw [State.play_params] at hk
    rw [transferAt_play _ planned, txCount_wireData]
    exact ht _ (Nat.add_lt_add_left hk _)
  have hboth : s.TransfersOk (ceilDiv (p ++ q).length s.params.chunkMax) :=
    ht.mono (List.length_append ▸ ceilDiv_add_le hc p.length q.length)
  exact ⟨_, _, _, _, _, _, _, _,
    sendData_ok hr (ht.mono (Nat.le_add_right ..)), State.play_trace _ s,
    sendData_ok hr' ht', State.play_trace _ s',
    sendData_ok (AllCallsReturn_play _ hr) hsecond, by simp,
    sendData_ok hr hboth, State.play_trace _ s,
    (wireData_sameOnWire hc hc' p).view_eq _, (wireData_oneShot hc p).view_eq _,
    (wireData_append_sameOnWire hc p q).view_eq _, wireData_append_ne _ p q⟩

/-! ### Display requests on the wire (40_framer R111, R112) -/

theorem wireFrame_sameOnWire {c c' : Nat} (hc : 1 ≤ c) (hc' : 1 ≤ c') (cmd : Byte) (p : List Byte) :
    SameOnWire (wireFrame c cmd p) (wireFrame c' cmd p) := by
  refine (SameOnWire.refl (wireCmd cmd)).append ?_
  split
  · exact .refl []
  · exact wireData_sameOnWire hc hc' p

theorem wireCell_sameOnWire {p : Params} {c : Nat} (hp : 1 ≤ p.chunkMax) (hc : 1 ≤ c) (x y w h : Nat)
    (pixels : List U16) :
    SameOnWire (wireCell p x y w h pixels) (wireCell { p with chunkMax := c } x y w h pixels) :=
  (((wireFrame_sameOnWire hp hc _ _).append (wireFrame_sameOnWire hp hc _ _)).append (.refl _)).append
    (.flatMap (fun _ => wireData_sameOnWire hp hc _) pixels)

theorem wireInit_sameOnWire {p : Params} {c : Nat} (hp : 1 ≤ p.chunkMax) (hc : 1 ≤ c) :
    SameOnWire (wireInit p) (wireInit { p with chunkMax := c }) :=
  (SameOnWire.refl _).append (.flatMap (fun _ => (wireFrame_sameOnWire hp hc _ _).append (.refl _)) p.initTable)

theorem displayPlan_sameOnWire {i : Instr} {s : State} {c : Nat} {plan plan' : List Event}
    (hs : 1 ≤ s.params.chunkMax) (hc : 1 ≤ c) (h : s.displayPlan i = some plan)
    (h' : ({ s with params.chunkMax := c } : State).displayPlan i = some plan') : SameOnWire plan plan' := by
  cases i with
  | cfgSurface | cfgCal | cfgSamples | touchRead => cases h
  | init =>
    by_cases hd : s.initDone = true
    · simp [State.displayPlan, hd] at h
    · simp only [State.displayPlan, hd] at h h'
      cases h
      cases h'
      exact wireInit_sameOnWire hs hc
  | frame cmd payload => cases h; cases h'; exact wireFrame_sameOnWire hs hc cmd payload
  | fillRect | fillScreen | clear =>
    obtain ⟨r, hr, rfl⟩ := Option.map_eq_some_iff.1 h
    obtain ⟨r', hr', rfl⟩ := Option.map_eq_some_iff.1 h'
    obtain rfl : r = r' := Option.some.inj (hr.symm.trans hr')
    exact wireCell_sameOnWire hs hc _ _ _ _ _
  | writeString x y font fg bg text =>
    obtain ⟨f, hf, rfl⟩ := Option.map_eq_some_iff.1 h
    obtain ⟨f', hf', rfl⟩ := Option.map_eq_some_iff.1 h'
    obtain rfl : f = f' := Option.some.inj (hf.symm.trans hf')
    exact .flatMap (fun _ => wireCell_sameOnWire hs hc _ _ _ _ _) _

/-- Settles O21: both runs send their plans in a scope of the display, and the plans look the same. -/
theorem listenerCannotSeeTheChunkLimit : Obligations.ListenerCannotSeeTheChunkLimit := by
  intro i s c plan plan' h hs hc h' hr ht ht'
  have same := displayPlan_sameOnWire hs hc h h'
  obtain ⟨t, hexec, htrace, hans, hframe, hdc, -⟩ := display_ok h hr ht
  obtain ⟨t', hexec', htrace', hans', hframe', hdc', -⟩ :=
    display_ok (s := { s with params.chunkMax := c }) h' hr ht'
  refine ⟨t, t', _, _, hexec, hexec', htrace, htrace', ?_, ?_, hans.responses_eq.trans hans'.responses_eq.symm⟩
  · exact (((SameOnWire.refl [.sel .disp]).append same).append (.refl [.desel .disp])).view_eq s.lines
  · have hdcs : t.dc = t'.dc := by rw [hdc, hdc', same.lines_eq]; rfl
    simp [State.lines, hframe.csDisp_eq, hframe'.csDisp_eq, hframe.csTouch_eq, hframe'.csTouch_eq, hdcs]

end Sys2Proof.Machine
end

section
/-! PROOFS. Family 40_framer: the first failed transmit ends a request that uses the display. -/

namespace Sys2Proof.Machine

/-! ### A plan cut at a transmit (40_framer R105) -/

/-- What is sent when transmit number k fails: what was planned before it, and the failure. -/
theorem cutAt_eq : ∀ (plan : List Event) (k : Nat), k < txCount plan →
    ∃ before bytes after, plan = before ++ .tx bytes :: after ∧ txCount before = k ∧
      cutAt k plan = before ++ [.txFail bytes]
  | [], _, hk => absurd hk (Nat.not_lt_zero _)
  | e :: l, k, hk => by
    by_cases htx : ∃ b, e = .tx b
    · obtain ⟨b, rfl⟩ := htx
      rw [txCount_cons_tx] at hk
      cases k with
      | zero => exact ⟨[], b, l, rfl, rfl, rfl⟩
      | succ k =>
        obtain ⟨before, bytes, after, rfl, hcount, hcut⟩ := cutAt_eq l k (Nat.lt_of_succ_lt_succ hk)
        exact ⟨.tx b :: before, bytes, after, rfl, by rw [txCount_cons_tx, hcount], by rw [cutAt, hcut]; rfl⟩
    · have hne : ∀ b, e ≠ .tx b := fun b hb => htx ⟨b, hb⟩
      rw [txCount_cons_other e l hne] at hk
      obtain ⟨before, bytes, after, rfl, hcount, hcut⟩ := cutAt_eq l k hk
      exact ⟨e :: before, bytes, after, rfl, by rw [txCount_cons_other e _ hne, hcount],
        by rw [cutAt_other k e _ hne, hcut]; rfl⟩

/-- A part without a transmit lies before every transmit. -/
theorem before_tx_of_append {a c before after : List Event} {bytes : List Byte} (ha : ∀ b, .tx b ∉ a)
    (h : a ++ c = before ++ .tx bytes :: after) : ∃ mid, before = a ++ mid ∧ c = mid ++ .tx bytes :: after := by
  rcases List.append_eq_append_iff.1 h with ⟨mid, hbefore, hc⟩ | ⟨mid, rfl, hc⟩
  · exact ⟨mid, hbefore, hc⟩
  · cases mid with
    | nil => exact ⟨[], by simp, hc.symm⟩
    | cons e mid =>
      obtain ⟨rfl, -⟩ := List.cons.inj hc
      exact absurd (List.mem_append_right _ (List.mem_cons_self ..)) (ha bytes)

/-! ### The reset line during INIT (42_init_sequencer R141) -/

/-- The part of INIT before its first command. -/
def wirePulse (p : Params) : List Event :=
  [.rst .low] ++ wireDelay p.rstLowMs ++ [.rst .high] ++ wireDelay p.rstHighMs

theorem wireInit_eq (p : Params) : wireInit p = wirePulse p ++ p.initTable.flatMap (wireEntry p.chunkMax) := rfl

theorem mem_wireDelay {n : Nat} {e : Event} (h : e ∈ wireDelay n) : e = .delay n := by
  unfold wireDelay at h
  split at h
  · exact List.mem_singleton.1 h
  · cases h

theorem wirePulse_no_tx (p : Params) (b : List Byte) : .tx b ∉ wirePulse p := by
  intro h
  simp only [wirePulse, List.mem_append, List.mem_singleton, reduceCtorEq, false_or, or_false] at h
  rcases h with h | h <;> cases mem_wireDelay h

theorem State.play_rst_of_no_rst {l : List Event} (h : ∀ level, .rst level ∉ l) (s : State) :
    (s.play l).rst = s.rst :=
  State.play_keeps_of State.rst (fun e => ∀ level, e ≠ .rst level)
    (fun s e he => by
      cases e with
      | rst level => exact absurd rfl (he level)
      | sel dev | desel dev => cases dev <;> rfl
      | _ => rfl)
    l s (fun e he level hx => h level (hx ▸ he))

theorem wireDelay_no_rst (n : Nat) (level : Level) : .rst level ∉ wireDelay n :=
  fun h => by cases mem_wireDelay h

theorem wireEntry_no_rst (c : Nat) (e : InitEntry) (level : Level) : .rst level ∉ wireEntry c e := by
  intro h
  rcases List.mem_append.1 h with h | h
  · cases wireFrame_drawing _ _ _ _ h
  · exact wireDelay_no_rst _ level h

theorem State.play_wirePulse_rst (s : State) (p : Params) : (s.play (wirePulse p)).rst = .high := by
  rw [wirePulse, State.play_append, State.play_rst_of_no_rst (wireDelay_no_rst _), State.play_append]
  rfl

/-- Before any transmit of INIT the reset line has been driven HIGH, and it stays so. -/
theorem State.play_init_before_rst {p : Params} {before after : List Event} {bytes : List Byte}
    (h : wireInit p = before ++ .tx bytes :: after) (s : State) : (s.play before).rst = .high := by
  obtain ⟨mid, rfl, hmid⟩ := before_tx_of_append (wirePulse_no_tx p) (wireInit_eq p ▸ h)
  have hno : ∀ level, .rst level ∉ mid := by
    intro level hm
    obtain ⟨e, -, he⟩ := List.mem_flatMap.1 (hmid ▸ List.mem_append_left _ hm)
    exact wireEntry_no_rst _ e level he
  rw [State.play_append, State.play_rst_of_no_rst hno, State.play_wirePulse_rst]

theorem displayPlan_before_rst {i : Instr} {s : State} {before after : List Event} {bytes : List Byte}
    (h : s.displayPlan i = some (before ++ .tx bytes :: after)) (u : State) :
    (u.play before).rst = if i = .init then .high else u.rst := by
  split
  case isTrue hi =>
    subst hi
    by_cases hd : s.initDone = true
    · simp [State.displayPlan, hd] at h
    · simp only [State.displayPlan, hd] at h
      exact State.play_init_before_rst (Option.some.inj h) u
  case isFalse hi =>
    exact State.play_rst (fun e he => displayPlan_drawing h hi e (List.mem_append_left _ he)) u

/-! ### A scope of the display that met a failure (60_exceptions R226) -/

/-- What every answer after a scope of the display leaves. -/
theorem DisplayFrame.of_play_scope (s : State) (i : Instr) (k : Kind) {l : List Event}
    (hl : ∀ e ∈ l, e.movesSelect = false) :
    DisplayFrame s (((s.begin i).play (.sel .disp :: l ++ [.desel .disp])).answer k) where
  surface := ⟨by simp, by simp, by simp⟩
  calibration := ⟨by simp, by simp, by simp, by simp, by simp, by simp, by simp⟩
  nSamples_eq := by simp
  csDisp_eq := by
    rw [State.answer_csDisp, State.play_append]
    rfl
  csTouch_eq := by
    have inside : ∀ u : State, (u.play l).csTouch = u.csTouch := fun u =>
      State.play_keeps_of State.csTouch (fun e => e.movesSelect = false)
        (fun s e he => by
          cases e with
          | sel | desel => cases he
          | _ => rfl)
        l u hl
    rw [State.answer_csTouch, State.play_append]
    exact inside ((s.begin i).emit (.sel .disp))
  sums := ⟨by simp, by simp, by simp⟩
  params_eq := by simp
  requests_eq := by simp

/-- The select, the failure and the deselect leave DC and RST as what was sent before the failure left them. -/
theorem State.play_failed_scope (s : State) (i : Instr) (before : List Event) (bytes : List Byte) :
    let u := (s.begin i).play (.sel .disp :: before ++ [.txFail bytes, .desel .disp])
    u.dc = (before.foldl Lines.apply s.lines).dc ∧ u.rst = (s.play before).rst := by
  have hsplit : (s.begin i).play (.sel .disp :: before ++ [.txFail bytes, .desel .disp]) =
      ((((s.begin i).emit (.sel .disp)).play before).emit (.txFail bytes)).emit (.desel .disp) := by
    rw [State.play_append]
    rfl
  have hlines := State.play_lines before ((s.begin i).emit (.sel .disp))
  simp only [hsplit]
  exact ⟨(congrArg Lines.dc hlines).trans (Lines.apply_dc before _ _ rfl), State.play_rst_of before _ _ rfl⟩

/-- Settles O19: the plan is cut at the failed transmit, and the deselect follows. -/
theorem firstFailedTransmitEndsTheRequest : Obligations.FirstFailedTransmitEndsTheRequest := by
  intro i s plan k d h hr hk ht hd
  obtain ⟨before, bytes, after, rfl, hcount, hcut⟩ := cutAt_eq plan k hk
  have hexec := exec_display_fail h hr hk ht hd
  have hsent : .sel .disp :: cutAt k (before ++ .tx bytes :: after) ++ [.desel .disp] =
      .sel .disp :: before ++ [.txFail bytes, .desel .disp] := by simp [hcut]
  have hselect : ∀ e ∈ before ++ [.txFail bytes], e.movesSelect = false := by
    have hin := (List.forall_mem_append.1 (displayPlan_inner h)).1
    exact List.forall_mem_append.2
      ⟨fun e he => Event.movesSelect_of_inner (hin e he), List.forall_mem_singleton.2 rfl⟩
  have hframe := DisplayFrame.of_play_scope s i .errTransport hselect
  rw [← hcut, hsent] at hframe
  rw [hsent] at hexec
  obtain ⟨hdc, hrst⟩ := State.play_failed_scope s i before bytes
  exact ⟨_, before, bytes, after, rfl, hcount, hexec, by simp,
    ⟨rfl, rfl, rfl, rfl, by simp [Kind.code]⟩, hframe, by simp, hdc, hrst.trans (displayPlan_before_rst h s)⟩

end Sys2Proof.Machine
end

section
/-! PROOFS. Family 40_framer: what the display receives of a FRAME, however it goes. -/

namespace Sys2Proof.Machine

/-! ### The display byte stream of events that do not fail (20_memory R52) -/

theorem Event.failedBytes_of_inner {e : Event} (h : e.inner = true) : e.failedBytes = none := by
  cases e with
  | txFail | txRxFail => cases h
  | _ => rfl

/-- Events that do not fail take none of the delivered prefixes. -/
theorem foldl_cutsAfter : ∀ {l : List Event}, (∀ e ∈ l, e.failedBytes = none) → ∀ cuts : List (List Byte),
    l.foldl Event.cutsAfter cuts = cuts
  | [], _, _ => rfl
  | e :: l, h, cuts => by
    obtain ⟨he, hl⟩ := List.forall_mem_cons.1 h
    have hcuts : e.cutsAfter cuts = cuts := by simp [Event.cutsAfter, he]
    rw [List.foldl_cons, hcuts, foldl_cutsAfter hl]

theorem Event.delivers_of_failedBytes {e : Event} (h : e.failedBytes = none) (cuts cuts' : List (List Byte)) :
    e.delivers cuts = e.delivers cuts' := by
  cases e with
  | txFail | txRxFail => cases h
  | _ => rfl

/-- The delivered prefixes play no part in the stream of events that do not fail. -/
theorem displayStream_cuts : ∀ {l : List Event}, (∀ e ∈ l, e.failedBytes = none) →
    ∀ (a : Lines) (cuts cuts' : List (List Byte)), displayStream a cuts l = displayStream a cuts' l
  | [], _, _, _, _ => rfl
  | e :: l, h, a, cuts, cuts' => by
    obtain ⟨he, hl⟩ := List.forall_mem_cons.1 h
    rw [displayStream, displayStream, Event.delivers_of_failedBytes he cuts cuts', displayStream_cuts hl]

/-! ### The stream of a cut list of events (40_framer R105, 20_memory R65) -/

theorem displayStream_of_isPrefix {l l' : List Event} (h : l <+: l') (a : Lines) (cuts : List (List Byte)) :
    displayStream a cuts l <+: displayStream a cuts l' := by
  obtain ⟨rest, rfl⟩ := h
  rw [displayStream_append]
  exact List.prefix_append _ _

/-- What was sent of a plan: a first part of it, or one that ends with the failure of the next transmit. -/
def SentOf (plan m : List Event) : Prop :=
  m <+: plan ∨ ∃ pre b post, plan = pre ++ .tx b :: post ∧ m = pre ++ [.txFail b]

/-- A failed transmit delivers an initial part of what the transmit would have delivered. -/
theorem displayStream_txFail_isPrefix {pre : List Event} (hpre : ∀ e ∈ pre, e.failedBytes = none) (post : List Event)
    {d b : List Byte} (hd : d <+: b) (a : Lines) :
    displayStream a [d] (pre ++ [.txFail b]) <+: displayStream a [] (pre ++ .tx b :: post) := by
  rw [displayStream_append, displayStream_append, foldl_cutsAfter hpre, foldl_cutsAfter hpre,
    displayStream_cuts hpre a [d] []]
  refine (List.prefix_append_right_inj _).2 ?_
  simp only [displayStream, Event.delivers, List.headD_cons, List.append_nil]
  split
  · exact (hd.map _).trans (List.prefix_append _ _)
  · exact List.nil_prefix

theorem CutsFit.eq_nil {cuts : List (List Byte)} {l : List Event} (hl : ∀ e ∈ l, e.failedBytes = none)
    (h : CutsFit cuts l) : cuts = [] := by
  rwa [CutsFit, List.filterMap_eq_nil_iff.2 hl, List.forall₂_nil_right_iff] at h

/-- The one failure has the one record of what was delivered. -/
theorem CutsFit.txFail {cuts : List (List Byte)} {pre : List Event} {b : List Byte}
    (hpre : ∀ e ∈ pre, e.failedBytes = none) (h : CutsFit cuts (pre ++ [.txFail b])) :
    ∃ d, cuts = [d] ∧ d <+: b := by
  rw [CutsFit, List.filterMap_append, List.filterMap_eq_nil_iff.2 hpre, List.nil_append] at h
  obtain ⟨d, rest, hd, hrest, rfl⟩ := List.forall₂_cons_right_iff.1 h
  exact ⟨d, by rw [List.forall₂_nil_right_iff.1 hrest], hd⟩

/-- What was sent of a plan delivers an initial part of what the plan would have delivered. -/
theorem SentOf.displayStream_isPrefix {plan m : List Event} {cuts : List (List Byte)} (h : SentOf plan m)
    (hplan : ∀ e ∈ plan, e.failedBytes = none) (hfit : CutsFit cuts m) (a : Lines) :
    displayStream a cuts m <+: displayStream a [] plan := by
  rcases h with hm | ⟨pre, b, post, rfl, rfl⟩
  · rw [hfit.eq_nil fun e he => hplan e (hm.subset he)]
    exact displayStream_of_isPrefix hm a []
  · have hpre := (List.forall_mem_append.1 hplan).1
    obtain ⟨d, rfl, hd⟩ := hfit.txFail hpre
    exact displayStream_txFail_isPrefix hpre post hd a

/-! ### The stream of a FRAME -/

/-- What a FRAME delivers when nothing fails: the command byte under COMMAND, the payload under DATA. -/
def frameStream (cmd : Byte) (p : List Byte) : List (DcMode × Byte) :=
  (.command, cmd) :: p.map (DcMode.data, ·)

theorem displayStream_txs {a : Lines} (ha : a.csDisp = .asserted) (cuts : List (List Byte)) :
    ∀ cs : List (List Byte), displayStream a cuts (cs.map Event.tx) = cs.flatten.map (a.dc, ·)
  | [] => rfl
  | c :: cs => by
    rw [List.flatten_cons, List.map_append, ← displayStream_txs ha cuts cs, List.map_cons, displayStream, if_pos ha]
    rfl

theorem displayStream_wireData {c : Nat} (hc : 1 ≤ c) (p : List Byte) {a : Lines} (ha : a.csDisp = .asserted) :
    displayStream a [] (wireData c p) = p.map (DcMode.data, ·) := by
  have hmode : displayStream a [] (wireData c p) =
      displayStream { a with dc := .data } [] ((chunks c p).map Event.tx) := by
    simp [wireData, displayStream, Event.delivers, Lines.apply, Event.cutsAfter, Event.failedBytes]
  rw [hmode, displayStream_txs (a := { a with dc := .data }) ha, chunks_flatten c p hc]

theorem displayStream_wireFrame {c : Nat} (hc : 1 ≤ c) (cmd : Byte) (p : List Byte) {a : Lines}
    (ha : a.csDisp = .asserted) : displayStream a [] (wireFrame c cmd p) = frameStream cmd p := by
  have hcmd : displayStream a [] (wireCmd cmd) = [(.command, cmd)] := by
    simp [wireCmd, displayStream, Lines.apply, ha, Event.delivers]
  rw [wireFrame, displayStream_append, hcmd]
  split
  case isTrue hp =>
    subst hp
    rfl
  case isFalse =>
    exact congrArg _ (displayStream_wireData hc p ha)

/-- The select of a scope that opens adds nothing. -/
theorem displayStream_sel {a : Lines} (ha : a.csDisp = .deasserted) (cuts : List (List Byte)) (l : List Event) :
    displayStream a cuts (.sel .disp :: l) = displayStream { a with csDisp := .asserted } cuts l := by
  simp [displayStream, ha, Event.cutsAfter, Event.failedBytes, Lines.apply]

/-- The deselect adds nothing. -/
theorem displayStream_desel (a : Lines) (cuts : List (List Byte)) (l : List Event) :
    displayStream a cuts (l ++ [.desel .disp]) = displayStream a cuts l := by
  simp [displayStream_append, displayStream, Event.delivers]

/-! ### However a display request goes (40_framer R104, R105) -/

/-- From s to t a scope of the display was opened and, of a plan, the events m were made in it; all of the plan when
the answer is OK. -/
structure SentInScope (plan : List Event) (s t : State) (m : List Event) : Prop where
  trace_eq : t.trace = s.trace ++ .sel .disp :: m ∨ t.trace = s.trace ++ .sel .disp :: (m ++ [.desel .disp])
  sent : SentOf plan m
  all_of_ok : t.seq = .idle → t.status = 0x00 → m = plan

/-- A display request hangs at its select, or sends of its plan what its way out says. -/
theorem exec_sentInScope {i : Instr} {s t : State} {plan : List Event} (hp : s.displayPlan i = some plan)
    (h : exec i s = .next t) : (t.trace = s.trace ∧ t.seq ≠ .idle) ∨ ∃ m, SentInScope plan s t m := by
  rcases exec_display_cases hp with he | ⟨pre, b, post, hplan, he⟩ | ⟨u, c, he, hret, hu⟩ <;>
    cases he.symm.trans h
  · refine .inr ⟨plan, .inr ?_, .inl (List.prefix_refl _), fun _ _ => rfl⟩
    rw [endDisplay_trace]
    simp
  · refine .inr ⟨pre ++ [.txFail b], .inr (by simp), .inr ⟨pre, b, post, hplan, rfl⟩, fun _ hok => ?_⟩
    exact absurd hok (by simp [Kind.code])
  · rcases hu with rfl | ⟨pre, e, post, rfl, rfl⟩ | rfl | ⟨pre, b, post, hplan, rfl⟩
    · exact .inl ⟨rfl, (Hung.play (l := []) c hret).busy⟩
    · exact .inr ⟨pre, .inl (by simp), .inl (List.prefix_append ..), fun hi => absurd hi (Hung.play c hret).busy⟩
    · exact .inr ⟨plan, .inl (by simp), .inl (List.prefix_refl _), fun _ _ => rfl⟩
    · exact .inr ⟨pre ++ [.txFail b], .inl (by simp), .inr ⟨pre, b, post, hplan, rfl⟩,
        fun hi => absurd hi (Hung.play c hret).busy⟩

/-- The select and the deselect of the scope add nothing to the stream. -/
theorem SentInScope.displayStream_eq {plan l m : List Event} {s t : State} (h : SentInScope plan s t m)
    (hl : t.trace = s.trace ++ l) (hdisp : s.csDisp = .deasserted) (cuts : List (List Byte)) :
    displayStream s.lines cuts l = displayStream { s.lines with csDisp := .asserted } cuts m := by
  rcases h.trace_eq with htrace | htrace <;> obtain rfl := List.append_cancel_left (hl.symm.trans htrace)
  · rw [displayStream_sel hdisp]
  · rw [displayStream_sel hdisp, displayStream_desel]

theorem SentInScope.cutsFit {plan l m : List Event} {s t : State} {cuts : List (List Byte)}
    (h : SentInScope plan s t m) (hl : t.trace = s.trace ++ l) (hfit : CutsFit cuts l) : CutsFit cuts m := by
  rcases h.trace_eq with htrace | htrace <;> obtain rfl := List.append_cancel_left (hl.symm.trans htrace) <;>
    simpa [CutsFit, List.filterMap_cons, Event.failedBytes] using hfit

/-- Settles O55: what was sent of the plan of a FRAME delivers an initial part of its stream. -/
theorem frameReachesTheDisplayInOrder : Obligations.FrameReachesTheDisplayInOrder := by
  intro cmd payload s t hc hdisp h
  have hplan : s.displayPlan (.frame cmd payload) = some (wireFrame s.params.chunkMax cmd payload) := rfl
  have hnone : ∀ e ∈ wireFrame s.params.chunkMax cmd payload, e.failedBytes = none :=
    fun e he => Event.failedBytes_of_inner (displayPlan_inner hplan e he)
  have hstream := displayStream_wireFrame hc cmd payload (a := { s.lines with csDisp := .asserted }) rfl
  obtain ⟨l, htrace, ⟨cuts, hcuts, hfit⟩, -⟩ := exec_reach h
  refine ⟨l, cuts, htrace, hcuts, ?_⟩
  rcases exec_sentInScope hplan h with ⟨hsame, hbusy⟩ | ⟨m, hm⟩
  · obtain rfl : l = [] := List.append_right_eq_self.1 (htrace.symm.trans hsame)
    exact ⟨List.nil_prefix, fun hi => absurd hi hbusy⟩
  · have hfit' := hm.cutsFit htrace hfit
    rw [hm.displayStream_eq htrace hdisp]
    have hpart := hm.sent.displayStream_isPrefix hnone hfit' { s.lines with csDisp := .asserted }
    rw [hstream] at hpart
    refine ⟨hpart, fun hi hok => ?_⟩
    obtain rfl := hm.all_of_ok hi hok
    rw [hfit'.eq_nil hnone]
    exact hstream

end Sys2Proof.Machine
end

section
/-! PROOFS. Family 41_address_window: what clipping gives, and the requests that fill a region. -/

namespace Sys2Proof.Machine

/-! ### Clipping (41_address_window R124, R125) -/

/-- A position inside the surface leaves room for at least one pixel, and the clamped extent stays inside. -/
theorem clampExtent_fits {surface pos extent : Nat} (hpos : pos < surface) (hext : extent ≠ 0) :
    clampExtent surface pos extent ≠ 0 ∧ pos + clampExtent surface pos extent ≤ surface := by
  unfold clampExtent
  split <;> omega

theorem clampExtent_zero (surface pos : Nat) (hpos : pos < surface) : clampExtent surface pos 0 = 0 :=
  if_neg (by omega)

theorem clampExtent_whole (surface : Nat) : clampExtent surface 0 surface = surface :=
  if_neg (by omega)

theorem clip_eq_some {W H x y w h : Nat} (hx : x < W) (hy : y < H) (hw : w ≠ 0) (hh : h ≠ 0) :
    clip W H x y w h = some (clampExtent W x w, clampExtent H y h) := by
  rw [clip, if_neg (by omega), if_neg]
  rintro (h0 | h0)
  · exact (clampExtent_fits hx hw).1 h0
  · exact (clampExtent_fits hy hh).1 h0

theorem clip_eq_none {W H x y w h : Nat} (hout : W ≤ x ∨ H ≤ y ∨ w = 0 ∨ h = 0) :
    clip W H x y w h = none := by
  by_cases hpos : W ≤ x ∨ H ≤ y
  · exact if_pos hpos
  · obtain ⟨hx, hy⟩ := not_or.1 hpos
    rw [clip, if_neg hpos, if_pos]
    rcases hout with h0 | h0 | rfl | rfl
    · exact absurd h0 hx
    · exact absurd h0 hy
    · exact .inl (clampExtent_zero W x (not_le.1 hx))
    · exact .inr (clampExtent_zero H y (not_le.1 hy))

/-- The whole surface is clipped to itself. -/
theorem clip_surface {W H : Nat} (hW : W ≠ 0) (hH : H ≠ 0) : clip W H 0 0 W H = some (W, H) := by
  rw [clip_eq_some (Nat.pos_of_ne_zero hW) (Nat.pos_of_ne_zero hH) hW hH, clampExtent_whole, clampExtent_whole]

/-! ### Requests that fill a region (41_address_window R126, R128, R129) -/

/-- From s, the request i fills the region of w by h at (x, y) with the colour. -/
structure Fills (i : Instr) (s : State) (x y w h : Nat) (color : U16) : Prop where
  exec_eq : exec i s = .next (fillRegion x y w h color (s.begin i))
  plan_eq : s.displayPlan i = (clip s.surfW.toNat s.surfH.toNat x y w h).map fun r =>
    wireCell s.params x y r.1 r.2 (List.replicate (r.1 * r.2) color)
  notInit : i ≠ .init

theorem Fills.fillRect (x y w h color : U16) (s : State) :
    Fills (.fillRect x y w h color) s x.toNat y.toNat w.toNat h.toNat color := ⟨rfl, rfl, by simp⟩

theorem Fills.fillScreen (color : U16) (s : State) :
    Fills (.fillScreen color) s 0 0 s.surfW.toNat s.surfH.toNat color := ⟨rfl, rfl, by simp⟩

theorem Fills.clear (s : State) :
    Fills .clear s 0 0 s.surfW.toNat s.surfH.toNat s.params.defaultColor := ⟨rfl, rfl, by simp⟩

/-- A region clipped to nothing is answered at once. -/
theorem Fills.exec_of_clip_none {i : Instr} {s : State} {x y w h : Nat} {color : U16} (hf : Fills i s x y w h color)
    (hc : clip s.surfW.toNat s.surfH.toNat x y w h = none) : exec i s = .next ((s.begin i).answer .ok) := by
  rw [hf.exec_eq, fillRegion, State.begin_surfW, State.begin_surfH, hc]

/-- The window of a cell, then the same data once for each pixel. -/
theorem wireCell_replicate (p : Params) (x y w h n : Nat) (color : U16) :
    wireCell p x y w h (List.replicate n color) =
      wireWindow p (BitVec.ofNat 16 x) (BitVec.ofNat 16 y) (BitVec.ofNat 16 (x + w - 1))
          (BitVec.ofNat 16 (y + h - 1)) ++
        (List.replicate n (wireData p.chunkMax [hi8 color, lo8 color])).flatten := by
  rw [wireCell, List.flatMap_replicate]
  rfl

/-- A region clipped to w' by h' pixels is drawn when no call fails. -/
theorem Fills.exec_ok {i : Instr} {s : State} {x y w h w' h' : Nat} {color : U16} (hf : Fills i s x y w h color)
    (hc : clip s.surfW.toNat s.surfH.toNat x y w h = some (w', h')) (hw : w' ≠ 0) (hh : h' ≠ 0)
    (hr : s.AllCallsReturn)
    (ht : s.TransfersOk (3 + 2 * ceilDiv 4 s.params.chunkMax + w' * h' * ceilDiv 2 s.params.chunkMax)) :
    ∃ t, exec i s = .next t ∧
      t.trace = s.trace ++ (.sel .disp :: wireWindow s.params (BitVec.ofNat 16 x) (BitVec.ofNat 16 y)
          (BitVec.ofNat 16 (x + w' - 1)) (BitVec.ofNat 16 (y + h' - 1)) ++
        (List.replicate (w' * h') (wireData s.params.chunkMax [hi8 color, lo8 color])).flatten ++ [.desel .disp]) ∧
      Answered s t 0x00 0 0 ∧ t.dc = .data ∧ DisplayFrame s t ∧ t.rst = s.rst ∧ t.initDone = s.initDone := by
  have hplan : s.displayPlan i = some (wireCell s.params x y w' h' (List.replicate (w' * h') color)) := by
    rw [hf.plan_eq, hc]
    rfl
  have hpixels : List.replicate (w' * h') color ≠ [] := by simp [hw, hh]
  obtain ⟨t, hexec, htrace, hans, hframe, hdc, hkeep, -⟩ :=
    display_ok hplan hr (by rwa [txCount_wireCell, List.length_replicate])
  obtain ⟨hrst, hinit⟩ := hkeep hf.notInit
  rw [wireCell_lines _ _ _ _ _ _ _ hpixels] at hdc
  rw [wireCell_replicate] at htrace
  exact ⟨t, hexec, by simpa using htrace, hans, hdc, hframe, hrst, hinit⟩

/-- The last coordinate of an extent inside the surface is a 16-bit value. -/
theorem toNat_lastCoordinate {surface : U16} {pos extent : Nat}
    (hfit : pos + extent ≤ surface.toNat) : (BitVec.ofNat 16 (pos + extent - 1)).toNat = pos + extent - 1 :=
  Nat.mod_eq_of_lt (by have := surface.isLt; omega)

/-- Settles O22: `Fills.exec_ok` for the clipped extents. -/
theorem fillRectDrawsTheClippedRectangle : Obligations.FillRectDrawsTheClippedRectangle := by
  intro x y w h color s hx hy hw hh hr w' h' ht
  have hw0 : w.toNat ≠ 0 := BitVec.toNat_ne.1 hw
  have hh0 : h.toNat ≠ 0 := BitVec.toNat_ne.1 hh
  obtain ⟨hw', hfitX⟩ : w' ≠ 0 ∧ x.toNat + w' ≤ s.surfW.toNat := clampExtent_fits hx hw0
  obtain ⟨hh', hfitY⟩ : h' ≠ 0 ∧ y.toNat + h' ≤ s.surfH.toNat := clampExtent_fits hy hh0
  have hx1 := toNat_lastCoordinate hfitX
  have hy1 := toNat_lastCoordinate hfitY
  obtain ⟨t, hexec, htrace, hrest⟩ :=
    (Fills.fillRect x y w h color s).exec_ok (clip_eq_some hx hy hw0 hh0) hw' hh' hr ht
  rw [BitVec.ofNat_toNat, BitVec.ofNat_toNat, BitVec.setWidth_eq, BitVec.setWidth_eq] at htrace
  exact ⟨t, _, _, hexec, hx1, hy1, by omega, by omega, by omega, by omega, htrace, hrest⟩

/-- Settles O23: the region is clipped to nothing. -/
theorem fillRectOutsideIsANoOp : Obligations.FillRectOutsideIsANoOp := by
  intro x y w h color s hout
  have hnone : clip s.surfW.toNat s.surfH.toNat x.toNat y.toNat w.toNat h.toNat = none :=
    clip_eq_none (hout.imp_right (.imp_right (.imp (congrArg BitVec.toNat) (congrArg BitVec.toNat))))
  exact ⟨_, (Fills.fillRect x y w h color s).exec_of_clip_none hnone, ⟨rfl, rfl, rfl, rfl, rfl⟩, rfl⟩

theorem lastCoordinate_of_surface {surface : U16} (h : surface ≠ 0) :
    BitVec.ofNat 16 (0 + surface.toNat - 1) = surface - 1 := by
  bv_omega

/-- Settles O24: both requests fill the surface, which is clipped to itself, or to nothing when it is empty. -/
theorem fillScreenAndClearDrawTheSurface : Obligations.FillScreenAndClearDrawTheSurface := by
  intro i color s hi hr ht
  have hf : Fills i s 0 0 s.surfW.toNat s.surfH.toNat color := by
    rcases hi with rfl | ⟨rfl, rfl⟩
    · exact .fillScreen color s
    · exact .clear s
  by_cases hempty : s.surfW = 0 ∨ s.surfH = 0
  · have hnone : clip s.surfW.toNat s.surfH.toNat 0 0 s.surfW.toNat s.surfH.toNat = none :=
      clip_eq_none (.inr (.inr (hempty.imp (congrArg BitVec.toNat) (congrArg BitVec.toNat))))
    obtain ⟨htrace, hsurf, hcal, hsums, hn, hinit, hcsd, hcst, hdc, hrst, hparams, henv, -⟩ :=
      answer_onlyAnswers (s.begin i) .ok
    exact ⟨_, hf.exec_of_clip_none hnone, ⟨rfl, rfl, rfl, rfl, rfl⟩, fun _ => ⟨htrace, hdc, hcsd⟩,
      fun hW hH => absurd hempty (not_or.2 ⟨hW, hH⟩), hsurf, hcal, hsums, hn, hinit, hcst, hrst, hparams,
      congrArg Env.requests henv⟩
  · obtain ⟨hW, hH⟩ := not_or.1 hempty
    have hW0 : s.surfW.toNat ≠ 0 := BitVec.toNat_ne.1 hW
    have hH0 : s.surfH.toNat ≠ 0 := BitVec.toNat_ne.1 hH
    obtain ⟨t, hexec, htrace, hans, hdc, hframe, hrst, hinit⟩ := hf.exec_ok (clip_surface hW0 hH0) hW0 hH0 hr ht
    rw [lastCoordinate_of_surface hW, lastCoordinate_of_surface hH] at htrace
    exact ⟨t, hexec, hans, fun h0 => absurd h0 hempty, fun _ _ => ⟨htrace, hdc, hframe.csDisp_eq⟩, hframe.surface,
      hframe.calibration, hframe.sums, hframe.nSamples_eq, hinit, hframe.csTouch_eq, hrst, hframe.params_eq,
      hframe.requests_eq⟩

end Sys2Proof.Machine
end

section
/-! PROOFS. Family 41_address_window: requests that fill the same region have the same outcome. -/

namespace Sys2Proof.Machine

/-- The two states differ at most in the sequencer. -/
def SameButSeq (s t : State) : Prop := t = { s with seq := t.seq }

theorem SameButSeq.emit {s t : State} (h : SameButSeq s t) (e : Event) : SameButSeq (s.emit e) (t.emit e) := by
  rw [h]
  rcases e with (_ | _) | (_ | _) | _ | _ | _ | _ | _ | _ | _ | _ <;> rfl

theorem SameButSeq.play : ∀ (l : List Event) {s t : State}, SameButSeq s t → SameButSeq (s.play l) (t.play l)
  | [], _, _, h => h
  | e :: l, _, _, h => SameButSeq.play l (h.emit e)

/-- The answer leaves the sequencer IDLE whatever request it held. -/
theorem SameButSeq.answer_eq {s t : State} (h : SameButSeq s t) (k : Kind) : t.answer k = s.answer k := by
  rw [h]
  rfl

theorem play_begin_answer (s : State) (i j : Instr) (l : List Event) (k : Kind) :
    ((s.begin i).play l).answer k = ((s.begin j).play l).answer k :=
  (SameButSeq.play l (s := s.begin j) (t := s.begin i) rfl).answer_eq k

/-- Of the next n transfers all succeed, or one is the first that fails. -/
theorem State.transfersOk_or_first_fail (s : State) : ∀ n : Nat,
    s.TransfersOk n ∨ ∃ k d, k < n ∧ s.TransfersOk k ∧ s.transferAt k = .fail d
  | 0 => .inl fun k hk => absurd hk (Nat.not_lt_zero k)
  | n + 1 => by
    rcases s.transfersOk_or_first_fail n with hok | ⟨k, d, hk, hbefore, hd⟩
    · cases hn : s.transferAt n with
      | ok =>
        refine .inl fun k hk => ?_
        rcases Nat.lt_succ_iff_lt_or_eq.1 hk with hlt | rfl
        · exact hok k hlt
        · exact hn
      | fail d => exact .inr ⟨n, d, Nat.lt_succ_self n, hok, hn⟩
    · exact .inr ⟨k, d, Nat.lt_succ_of_lt hk, hbefore, hd⟩

theorem endDisplay_of_ne_init {i : Instr} (hi : i ≠ .init) (u : State) : endDisplay i u = u.answer .ok :=
  if_neg hi

/-- Requests other than INIT that plan the same events have the same outcome, failures included. -/
theorem exec_eq_of_displayPlan_eq {i j : Instr} {s : State} {plan : List Event} (hi : i ≠ .init) (hj : j ≠ .init)
    (hpi : s.displayPlan i = some plan) (hpj : s.displayPlan j = some plan) (hr : s.AllCallsReturn) :
    exec i s = exec j s := by
  rcases s.transfersOk_or_first_fail (txCount plan) with hok | ⟨k, d, hk, hbefore, hd⟩
  · rw [exec_display_ok hpi hr hok, exec_display_ok hpj hr hok, endDisplay_of_ne_init hi, endDisplay_of_ne_init hj,
      play_begin_answer s i j]
  · rw [exec_display_fail hpi hr hk hbefore hd, exec_display_fail hpj hr hk hbefore hd, play_begin_answer s i j]

theorem Fills.exec_eq_exec {i j : Instr} {s : State} {x y w h : Nat} {color : U16} (hi : Fills i s x y w h color)
    (hj : Fills j s x y w h color) (hr : s.AllCallsReturn) : exec i s = exec j s := by
  cases hc : clip s.surfW.toNat s.surfH.toNat x y w h with
  | none =>
    rw [hi.exec_of_clip_none hc, hj.exec_of_clip_none hc]
    exact congrArg _ (play_begin_answer s i j [] .ok)
  | some r =>
    have hpi := hi.plan_eq
    have hpj := hj.plan_eq
    rw [hc, Option.map_some] at hpi hpj
    exact exec_eq_of_displayPlan_eq hi.notInit hj.notInit hpi hpj hr

/-- Settles O25: in both pairs the two requests fill the same region in the same colour. -/
theorem fillScreenIsFillRectOfTheSurface : Obligations.FillScreenIsFillRectOfTheSurface := fun color s hr =>
  ⟨(Fills.fillScreen color s).exec_eq_exec (.fillRect 0 0 s.surfW s.surfH color s) hr,
    (Fills.clear s).exec_eq_exec (.fillScreen s.params.defaultColor s) hr⟩

end Sys2Proof.Machine
end

section
/-! PROOFS. Family 41_address_window: how many calls a window makes, and the packing of colours. -/

namespace Sys2Proof.Machine

/-! ### Mode and transmit counts (41_address_window R127, 43_glyph_renderer R154) -/

/-- A payload that fits in one chunk. -/
theorem ceilDiv_eq_one {a b : Nat} (ha : 1 ≤ a) (hab : a ≤ b) : ceilDiv a b = 1 :=
  Nat.div_eq_of_lt_le (by omega) (by omega)

theorem modeCount_wireCmd (b : Byte) : modeCount (wireCmd b) = 1 := rfl

theorem modeCount_wireFrame {c : Nat} {cmd : Byte} {p : List Byte} (hp : p ≠ []) :
    modeCount (wireFrame c cmd p) = 2 := by
  rw [wireFrame, if_neg hp, modeCount_append, modeCount_wireCmd, modeCount_wireData]

theorem modeCount_wireWindow (p : Params) (x0 y0 x1 y1 : U16) : modeCount (wireWindow p x0 y0 x1 y1) = 5 := by
  rw [wireWindow, modeCount_append, modeCount_append, modeCount_wireFrame (by simp), modeCount_wireFrame (by simp),
    modeCount_wireCmd]

theorem modeCount_pixels (c : Nat) : ∀ pixels : List U16,
    modeCount (pixels.flatMap (wirePixel c)) = pixels.length
  | [] => rfl
  | color :: pixels => by
    rw [List.flatMap_cons, modeCount_append, modeCount_pixels c pixels, wirePixel, modeCount_wireData,
      List.length_cons, Nat.add_comm]

/-- Settles O26: the window has five modes and each pixel one; with C at least 4 no payload needs a second chunk. -/
theorem cellEventCounts : Obligations.CellEventCounts := by
  intro p x y w h pixels hc
  constructor
  · rw [wireCell, modeCount_append, modeCount_wireWindow, modeCount_pixels]
  · rw [txCount_wireCell, ceilDiv_eq_one (by decide) hc, ceilDiv_eq_one (by decide) (by omega)]
    omega

/-! ### Colour packing (41_address_window R120, R121) -/

/-- Settles O27, bit by bit: each shift puts the masked channel at its place, where the other two are 0. -/
theorem colourPacking : Obligations.ColourPacking := by
  intro r g b
  refine ⟨?_, ?_, ?_⟩ <;> ext i hi <;> interval_cases i <;> simp [color565]

/-- The three fields are all of a colour. -/
theorem eq_of_colourFields {u v : U16} (hr : u.extractLsb' 11 5 = v.extractLsb' 11 5)
    (hg : u.extractLsb' 5 6 = v.extractLsb' 5 6) (hb : u.extractLsb' 0 5 = v.extractLsb' 0 5) : u = v := by
  have split : ∀ w : U16, w.extractLsb' 11 5 ++ (w.extractLsb' 5 6 ++ w.extractLsb' 0 5) = w := by
    intro w
    have hlow : w.extractLsb' 5 6 ++ w.extractLsb' 0 5 = w.extractLsb' 0 (6 + 5) :=
      BitVec.extractLsb'_append_extractLsb'_eq_extractLsb' rfl
    rw [hlow]
    exact BitVec.extractLsb'_append_extractLsb'
  rw [← split u, ← split v, hr, hg, hb]

theorem color565_eq_iff {r g b : Byte} {v : U16} : color565 r g b = v ↔
    r.extractLsb' 3 5 = v.extractLsb' 11 5 ∧ g.extractLsb' 2 6 = v.extractLsb' 5 6 ∧
      b.extractLsb' 3 5 = v.extractLsb' 0 5 := by
  obtain ⟨hr, hg, hb⟩ := colourPacking r g b
  rw [← hr, ← hg, ← hb]
  exact ⟨fun h => h ▸ ⟨rfl, rfl, rfl⟩, fun ⟨h1, h2, h3⟩ => eq_of_colourFields h1 h2 h3⟩

/-- The dropped low bits are free. -/
theorem ncard_highBits_eq {m n : Nat} (a : BitVec m) :
    Set.ncard { x : BitVec (m + n) | x.extractLsb' n m = a } = 2 ^ n := by
  have hrange : { x : BitVec (m + n) | x.extractLsb' n m = a } = Set.range fun low : BitVec n => a ++ low := by
    ext x
    constructor
    · rintro rfl
      exact ⟨x.extractLsb' 0 n, BitVec.extractLsb'_append_extractLsb'⟩
    · rintro ⟨low, rfl⟩
      exact BitVec.extractLsb'_append_eq_left
  rw [hrange, Set.ncard_range_of_injective fun _ _ h => (BitVec.append_right_inj a).1 h,
    Nat.card_congr BitVec.equivFin.toEquiv, Nat.card_fin]

/-- Settles O28: the fields of the colour fix the high bits of each channel, and 3, 2 and 3 low bits are free. -/
theorem colourHas256Preimages : Obligations.ColourHas256Preimages := by
  intro v
  have hprod : { c : Byte × Byte × Byte | color565 c.1 c.2.1 c.2.2 = v } =
      { r : BitVec (5 + 3) | r.extractLsb' 3 5 = v.extractLsb' 11 5 } ×ˢ
        ({ g : BitVec (6 + 2) | g.extractLsb' 2 6 = v.extractLsb' 5 6 } ×ˢ
          { b : BitVec (5 + 3) | b.extractLsb' 3 5 = v.extractLsb' 0 5 }) :=
    Set.ext fun _ => color565_eq_iff
  rw [hprod, Set.ncard_prod, Set.ncard_prod, ncard_highBits_eq, ncard_highBits_eq, ncard_highBits_eq]
  rfl

end Sys2Proof.Machine
end

section
/-! PROOFS. Family 42_init_sequencer: the locked INIT, the one-way lock, and an INIT that meets no failure. -/

namespace Sys2Proof.Machine

/-! ### The lock (42_init_sequencer R141, R143) -/

theorem exec_init_locked {s : State} (h : s.initDone = true) :
    exec .init s = .next ((s.begin .init).answer .errLocked) := by
  rw [exec, execInit, State.begin_initDone, if_pos h]

theorem exec_init_unlocked {s : State} (h : s.initDone = false) :
    exec .init s = .next (conclude (inScope .disp initBody (s.begin .init)) fun _ t => t.setInitDone.answer .ok) := by
  rw [exec, execInit, State.begin_initDone, h]
  rfl

theorem exec_cfgSurface_locked {s : State} (h : s.initDone = true) (w h' : U16) (rot : Byte) :
    exec (.cfgSurface w h' rot) s = .next ((s.begin (.cfgSurface w h' rot)).answer .errLocked) := by
  rw [exec, execCfgSurface, State.begin_initDone, if_pos h]

/-- Settles O30: `exec_init_locked`, and an answer writes the results only. -/
theorem secondInitIsLocked : Obligations.SecondInitIsLocked :=
  fun _ h => ⟨_, exec_init_locked h, ⟨rfl, rfl, rfl, rfl, rfl⟩, rfl⟩

/-- Settles O52: the two requests that write INIT_DONE or the surface are refused, and the others write neither. -/
theorem initDoneLocksTheSurface : Obligations.InitDoneLocksTheSurface := by
  intro i s t hd h
  have writes := exec_oneWriter h
  by_cases hinit : i = .init
  · subst hinit
    cases (exec_init_locked hd).symm.trans h
    exact ⟨hd, writes.surface (by simp)⟩
  · refine ⟨(writes.init hinit).1.trans hd, ?_⟩
    by_cases hsurf : ∃ w h' rot, i = .cfgSurface w h' rot
    · obtain ⟨w, h', rot, rfl⟩ := hsurf
      cases (exec_cfgSurface_locked hd w h' rot).symm.trans h
      exact (answer_onlyAnswers (s.begin (.cfgSurface w h' rot)) .errLocked).surface
    · exact writes.surface fun w h' rot hi => hsurf ⟨w, h', rot, hi⟩

/-! ### What playing INIT leaves of the lines (42_init_sequencer R141, 40_framer R107) -/

theorem displayPlan_init {s : State} (h : s.initDone = false) : s.displayPlan .init = some (wireInit s.params) := by
  rw [State.displayPlan, h]
  rfl

theorem State.play_wireInit_rst (s : State) (p : Params) : (s.play (wireInit p)).rst = .high := by
  have table : ∀ level, .rst level ∉ p.initTable.flatMap (wireEntry p.chunkMax) := fun level h => by
    obtain ⟨e, -, he⟩ := List.mem_flatMap.1 h
    exact wireEntry_no_rst _ e level he
  rw [wireInit_eq, State.play_append, State.play_rst_of_no_rst table, State.play_wirePulse_rst]

theorem wireDelay_lines (n : Nat) (a : Lines) : (wireDelay n).foldl Lines.apply a = a := by
  unfold wireDelay
  split <;> rfl

theorem wirePulse_lines (p : Params) (a : Lines) : (wirePulse p).foldl Lines.apply a = a := by
  simp only [wirePulse, List.foldl_append, wireDelay_lines]
  rfl

theorem wireEntry_lines (c : Nat) (e : InitEntry) (a : Lines) :
    (wireEntry c e).foldl Lines.apply a = { a with dc := if e.payload = [] then .command else .data } := by
  rw [wireEntry, List.foldl_append, wireDelay_lines, wireFrame_lines]

/-- With an empty table INIT leaves the lines as they were. -/
theorem wireInit_lines_of_nil {p : Params} (h : p.initTable = []) (a : Lines) :
    (wireInit p).foldl Lines.apply a = a := by
  rw [wireInit_eq, h, List.flatMap_nil, List.append_nil, wirePulse_lines]

/-- The payload of the last entry says in which mode INIT leaves DC. -/
theorem wireInit_dc_of_getLast {p : Params} {e : InitEntry} (h : p.initTable.getLast? = some e) (a : Lines) :
    ((wireInit p).foldl Lines.apply a).dc = if e.payload = [] then .command else .data := by
  obtain ⟨before, htable⟩ := List.getLast?_eq_some_iff.1 h
  rw [wireInit_eq, htable, List.flatMap_append, List.flatMap_singleton, List.foldl_append, List.foldl_append,
    wireEntry_lines]

/-- Settles O29: `display_ok` for the plan of INIT. -/
theorem initReplaysTheTable : Obligations.InitReplaysTheTable := by
  intro s hd hr ht
  obtain ⟨t, hexec, htrace, hans, hframe, hdc, -, hinit⟩ := display_ok (displayPlan_init hd) hr ht
  obtain ⟨hrst, hdone⟩ := hinit rfl
  refine ⟨t, hexec, htrace, hans, hdone, hrst.trans (s.play_wireInit_rst _), fun hnil => ?_, fun e he => ?_, hframe⟩
  · rw [hdc, wireInit_lines_of_nil hnil]
    rfl
  · rw [hdc, wireInit_dc_of_getLast he]

end Sys2Proof.Machine
end

section
/-! PROOFS. Family 42_init_sequencer: only INIT drives the reset line and delays, and what it does depends on the
parameters, INIT_DONE and its draws only. -/

namespace Sys2Proof.Machine

/-! ### Reset and delay events (42_init_sequencer R142) -/

/-- The events of `set_reset` and `delay_ms`. -/
def Event.ofInit : Event → Bool
  | .rst _ | .delay _ => true
  | _ => false

theorem Event.ofInit_of_drawing {e : Event} (h : e.drawing = true) : e.ofInit = false := by
  cases e with
  | rst | delay => cases h
  | _ => rfl

theorem Event.ofInit_of_sampling {e : Event} (h : e.sampling = true) : e.ofInit = false := by
  cases e with
  | rst | delay => cases h
  | _ => rfl

/-- From s to t events were made, and none was a reset or a delay. -/
def NoInitEvents (s t : State) : Prop := ∃ l, t.trace = s.trace ++ l ∧ ∀ e ∈ l, e.ofInit = false

theorem NoInitEvents.of_scope {s t : State} {m : List Event} (dev : Dev) (tail : List Event)
    (hm : ∀ e ∈ m, e.ofInit = false) (htail : ∀ e ∈ tail, e.ofInit = false)
    (h : t.trace = s.trace ++ (.sel dev :: m ++ tail)) : NoInitEvents s t :=
  ⟨_, h, List.forall_mem_cons.2 ⟨rfl, List.forall_mem_append.2 ⟨hm, htail⟩⟩⟩

theorem NoInitEvents.of_trace_eq {s t : State} (h : t.trace = s.trace) : NoInitEvents s t :=
  ⟨[], by simp [h], by simp⟩

theorem exec_noInitEvents {i : Instr} {s t : State} (hi : i ≠ .init) (h : exec i s = .next t) : NoInitEvents s t := by
  have plan_ok : ∀ {plan}, s.displayPlan i = some plan → ∀ e ∈ plan, e.ofInit = false :=
    fun hp e he => Event.ofInit_of_drawing (displayPlan_drawing hp hi e he)
  have loop_ok : ∀ {l : List Event}, (∀ e ∈ l, e.sampling = true) → ∀ e ∈ l, e.ofInit = false :=
    fun hl e he => Event.ofInit_of_sampling (hl e he)
  cases exec_shape h with
  | direct k u ends noBus =>
    subst ends
    exact .of_trace_eq ((oneScopePerRequest i s _ h rfl).1 noBus)
  | dispOk plan planned ends =>
    subst ends
    exact .of_scope .disp [.desel .disp] (plan_ok planned) (by simp [Event.ofInit]) (by simp [endDisplay_trace])
  | dispFail pre b post planned ends =>
    subst ends
    have hpre := (List.forall_mem_append.1 (plan_ok planned)).1
    exact .of_scope .disp [.txFail b, .desel .disp] hpre (by simp [Event.ofInit]) (by simp)
  | dispHung l c plan planned made _ ends =>
    subst ends
    rcases made with rfl | ⟨m, rfl, ⟨rest, rfl⟩ | ⟨pre, b, post, rfl, rfl⟩⟩
    · exact .of_trace_eq rfl
    · exact .of_scope .disp [] (List.forall_mem_append.1 (plan_ok planned)).1 (by simp) (by simp)
    · have hpre := (List.forall_mem_append.1 (plan_ok planned)).1
      exact .of_scope .disp [.txFail b] hpre (by simp [Event.ofInit]) (by simp)
  | touchDone u l _ _ ends _ sampling _ reach =>
    subst ends
    exact .of_scope .touch [.desel .touch] (loop_ok sampling) (by simp [Event.ofInit])
      ((finishTouch_onlyAnswers u).trace_eq.trans reach.trace_eq)
  | touchFail u l _ _ ends _ sampling _ reach =>
    subst ends
    exact .of_scope .touch [.desel .touch] (loop_ok sampling) (by simp [Event.ofInit]) reach.trace_eq
  | touchHung u c _ ends _ reach =>
    subst ends
    rcases reach with ⟨_, hr⟩ | ⟨l, _, _, _, sampling, _, hr⟩
    · exact .of_trace_eq (by simpa using hr.trace_eq)
    · exact .of_scope .touch [] (loop_ok sampling) (by simp) (by simpa using hr.trace_eq)

/-! ### Two runs of one plan (42_init_sequencer R142) -/

/-- Of the next n calls the same one, if any, never returns. -/
def SameHangs (s s' : State) (n : Nat) : Prop := ∀ k, k < n →
  (s'.env.neverReturns = some (s'.env.calls + k) ↔ s.env.neverReturns = some (s.env.calls + k))

/-- The next n transfers have the same results. -/
def SameTransfers (s s' : State) (n : Nat) : Prop := ∀ k, k < n → s'.transferAt k = s.transferAt k

theorem SameHangs.mono {s s' : State} {m n : Nat} (h : SameHangs s s' n) (hmn : m ≤ n) : SameHangs s s' m :=
  fun k hk => h k (hk.trans_le hmn)

theorem SameHangs.play {s s' : State} {n : Nat} (l : List Event) (h : SameHangs s s' (l.length + n)) :
    SameHangs (s.play l) (s'.play l) n := fun k hk => by
  simpa [Nat.add_assoc] using h (l.length + k) (by omega)

theorem SameHangs.callReturns_eq {s s' : State} {n : Nat} (h : SameHangs s s' n) (hn : 0 < n) :
    s'.callReturns = s.callReturns := by
  simpa [State.callReturns] using h 0 hn

theorem SameTransfers.play {s s' : State} {n : Nat} {l : List Event} (hl : ∀ e ∈ l, e.planned = true)
    (h : SameTransfers s s' (txCount l + n)) : SameTransfers (s.play l) (s'.play l) n := fun k hk => by
  rw [transferAt_play l hl, transferAt_play l hl]
  exact h _ (by omega)

/-- Which call is outstanding when a planned one never returns does not depend on the state. -/
theorem runCall_hung {e : Event} (he : e.planned = true) :
    ∃ c, ∀ s : State, s.callReturns = false → runCall e s = .hung (s.hang c) := by
  cases e with
  | sel dev => exact ⟨.assertSelect dev, fun s h => by simp [runCall, assertSelect, simpleCall, h]⟩
  | desel dev => exact ⟨.deassertSelect dev, fun s h => by simp [runCall, deassertSelect, simpleCall, h]⟩
  | mode m => exact ⟨.setMode m, fun s h => by simp [runCall, setMode, simpleCall, h]⟩
  | rst level => exact ⟨.setReset level, fun s h => by simp [runCall, setReset, simpleCall, h]⟩
  | tx b => exact ⟨.transmit b, fun s h => by simp [runCall, transmit, h]⟩
  | delay n => exact ⟨.delayMs n, fun s h => by simp [runCall, delayMs, simpleCall, h]⟩
  | txFail | txRx | txRxFail | press => cases he

theorem runCall_ok {e : Event} (he : e.planned = true) {s : State} (hr : s.callReturns = true)
    (ht : ∀ b, e = .tx b → s.transferAt 0 = .ok) : runCall e s = .ok () (s.emit e) := by
  rcases runCall_cases e he s with ⟨-, -, h⟩ | ⟨b, d, rfl, -, hd, -⟩ | ⟨h, -⟩
  · exact h
  · cases (ht b rfl).symm.trans hd
  · cases hr.symm.trans h

theorem runCall_tx_failed {b : List Byte} {s : State} {d : Nat} (hr : s.callReturns = true)
    (hd : s.transferAt 0 = .fail d) : runCall (.tx b) s = .failed (s.emit (.txFail b)) := by
  simp [runCall, transmit, hr, hd]

/-- Two procedures, one from s and one from s', end in the same way after the same events, at most n of them when no
call hangs. -/
inductive Lockstep (n : Nat) (s s' : State) : Run Unit → Run Unit → Prop
  | ok (l : List Event) (short : l.length ≤ n) : Lockstep n s s' (.ok () (s.play l)) (.ok () (s'.play l))
  | failed (l : List Event) (short : l.length ≤ n) : Lockstep n s s' (.failed (s.play l)) (.failed (s'.play l))
  | hung (l : List Event) (c : Call) : Lockstep n s s' (.hung ((s.play l).hang c)) (.hung ((s'.play l).hang c))

theorem Lockstep.mono {m n : Nat} {s s' : State} {r r' : Run Unit} (h : Lockstep m s s' r r') (hmn : m ≤ n) :
    Lockstep n s s' r r' := by
  cases h with
  | ok l short => exact .ok l (short.trans hmn)
  | failed l short => exact .failed l (short.trans hmn)
  | hung l c => exact .hung l c

/-- Events that both runs made before count as made by the two procedures. -/
theorem Lockstep.append {n : Nat} {s s' : State} {r r' : Run Unit} (l : List Event)
    (h : Lockstep n (s.play l) (s'.play l) r r') : Lockstep (l.length + n) s s' r r' := by
  cases h with
  | ok m short =>
    rw [← State.play_append, ← State.play_append]
    exact .ok (l ++ m) (by rw [List.length_append]; omega)
  | failed m short =>
    rw [← State.play_append, ← State.play_append]
    exact .failed (l ++ m) (by rw [List.length_append]; omega)
  | hung m c =>
    rw [← State.play_append, ← State.play_append]
    exact .hung (l ++ m) c

/-- The same draws take a plan the same way. -/
theorem runPlan_lockstep : ∀ (plan : List Event), (∀ e ∈ plan, e.planned = true) → ∀ s s' : State,
    SameTransfers s s' (txCount plan) → SameHangs s s' plan.length →
    Lockstep plan.length s s' (runPlan plan s) (runPlan plan s')
  | [], _, _, _, _, _ => .ok [] (Nat.le_refl 0)
  | e :: l, hp, s, s', ht, hc => by
    obtain ⟨he, hl⟩ := List.forall_mem_cons.1 hp
    have hret := hc.callReturns_eq (Nat.succ_pos _)
    have hfirst : ∀ b, e = .tx b → s'.transferAt 0 = s.transferAt 0 := by
      rintro b rfl
      exact ht 0 (by rw [txCount_cons_tx]; omega)
    rw [runPlan_cons, runPlan_cons]
    rcases runCall_cases e he s with ⟨hr, hok, h⟩ | ⟨b, d, rfl, hr, hd, h⟩ | ⟨hr, -⟩
    · rw [h, runCall_ok he (hret.trans hr) fun b hb => (hfirst b hb).trans (hok b hb)]
      have ht' : SameTransfers s s' (txCount [e] + txCount l) := txCount_append [e] l ▸ ht
      have hc' : SameHangs s s' ([e].length + l.length) := hc.mono (Nat.add_comm 1 _).le
      have hrest := runPlan_lockstep l hl _ _ (ht'.play (List.forall_mem_singleton.2 he)) (hc'.play [e])
      exact (hrest.append [e]).mono (Nat.add_comm 1 _).le
    · rw [h, runCall_tx_failed (hret.trans hr) ((hfirst b rfl).trans hd)]
      exact .failed [.txFail b] (Nat.le_add_left 1 _)
    · obtain ⟨c, hhung⟩ := runCall_hung he
      rw [hhung s hr, hhung s' (hret.trans hr)]
      exact .hung [] c

/-! ### Two runs of one scope -/

/-- Raising a failure after two procedures in lockstep keeps them so. -/
theorem Lockstep.thenFail {n : Nat} {s s' : State} {r r' : Run Unit} (h : Lockstep n s s' r r') :
    Lockstep n s s' (r.andThen fun s => .failed s) (r'.andThen fun s => .failed s) := by
  cases h with
  | ok l short => exact .failed l short
  | failed l short => exact .failed l short
  | hung l c => exact .hung l c

theorem deassertSelect_lockstep (dev : Dev) {s s' : State} (hc : SameHangs s s' 1) :
    Lockstep 1 s s' (deassertSelect dev s) (deassertSelect dev s') := by
  have one : ∀ u : State, runPlan [.desel dev] u = deassertSelect dev u := fun u => Run.andThen_ok _
  rw [← one, ← one]
  exact runPlan_lockstep [.desel dev] (by simp [Event.planned]) s s' (fun k hk => absurd hk (Nat.not_lt_zero k)) hc

/-- How a scope is closed after what was done in it. -/
def closeScope (dev : Dev) (r : Run Unit) : Run Unit :=
  match r with
  | .ok _ s => deassertSelect dev s
  | .failed s => (deassertSelect dev s).andThen fun s => .failed s
  | .hung s => .hung s

/-- A scope around a plan is the plan with the select before it, closed. -/
theorem inScope_eq_closeScope {p : Params} {f : State → Run Unit} {plan : List Event} (hf : Follows p f plan)
    (dev : Dev) {s : State} (hs : s.params = p) : inScope dev f s = closeScope dev (runPlan (.sel dev :: plan) s) := by
  rw [runPlan_cons, inScope, runCall]
  rcases runCall_cases (.sel dev) rfl s with ⟨-, -, h⟩ | ⟨b, d, hb, -⟩ | ⟨-, c, h⟩
  · rw [runCall] at h
    rw [h, Run.ok_andThen, Run.ok_andThen, hf.2 _ (by simpa using hs)]
    cases runPlan plan (s.emit (.sel dev)) with
    | ok u t => exact Run.andThen_ok _
    | failed t => rfl
    | hung t => rfl
  · cases hb
  · rw [runCall] at h
    rw [h]
    rfl

theorem Lockstep.closeScope {n : Nat} {s s' : State} {r r' : Run Unit} (h : Lockstep n s s' r r') (dev : Dev)
    (hc : SameHangs s s' (n + 1)) : Lockstep (n + 1) s s' (closeScope dev r) (closeScope dev r') := by
  have desel : ∀ l : List Event, l.length ≤ n →
      Lockstep 1 (s.play l) (s'.play l) (deassertSelect dev (s.play l)) (deassertSelect dev (s'.play l)) :=
    fun l short => deassertSelect_lockstep dev ((hc.mono (by omega)).play l)
  cases h with
  | ok l short => exact ((desel l short).append l).mono (by omega)
  | failed l short => exact ((desel l short).thenFail.append l).mono (by omega)
  | hung l c => exact .hung l c

/-- The same draws take a scope around a plan the same way: its calls are those of the plan, a select and a
deselect. -/
theorem inScope_lockstep {p : Params} {f : State → Run Unit} {plan : List Event} (hf : Follows p f plan) (dev : Dev)
    {s s' : State} (hs : s.params = p) (hs' : s'.params = p) (ht : SameTransfers s s' (txCount plan))
    (hc : SameHangs s s' (plan.length + 2)) :
    Lockstep (plan.length + 2) s s' (inScope dev f s) (inScope dev f s') := by
  rw [inScope_eq_closeScope hf dev hs, inScope_eq_closeScope hf dev hs']
  have ht' : SameTransfers s s' (txCount (.sel dev :: plan)) := by rwa [txCount_cons_other _ _ (by simp)]
  exact (runPlan_lockstep (.sel dev :: plan) (List.forall_mem_cons.2 ⟨rfl, hf.1⟩) s s' ht'
    (hc.mono (Nat.le_succ _))).closeScope dev hc

/-! ### Two runs of INIT -/

/-- From s to t and from s' to t' the same calls were made, and both ended in the same way and with the same kind. -/
def SameCourse (s s' t t' : State) : Prop :=
  ∃ l, t.trace = s.trace ++ l ∧ t'.trace = s'.trace ++ l ∧ t'.seq = t.seq ∧ (t.seq = .idle → t'.status = t.status)

theorem SameCourse.answer {s s' : State} (i : Instr) (l : List Event) (k : Kind) :
    SameCourse s s' (((s.begin i).play l).answer k) (((s'.begin i).play l).answer k) :=
  ⟨l, by simp, by simp, rfl, fun _ => rfl⟩

theorem SameCourse.hang {s s' : State} (i : Instr) (l : List Event) (c : Call) :
    SameCourse s s' (((s.begin i).play l).hang c) (((s'.begin i).play l).hang c) := by
  have hseq : ∀ u : State, ((u.begin i).play l).seq = .busy i ⟨0 + l.length, none⟩ := fun u =>
    State.play_seq l (u.begin i) i 0 rfl
  exact ⟨l, by simp, by simp, by simp [hseq], by simp [hseq, Seq.wait]⟩

theorem SameCourse.conclude {n : Nat} {s s' : State} {r r' : Run Unit}
    (h : Lockstep n (s.begin .init) (s'.begin .init) r r') :
    SameCourse s s' (conclude r fun _ t => t.setInitDone.answer .ok)
      (conclude r' fun _ t => t.setInitDone.answer .ok) := by
  cases h with
  | ok l => exact .answer .init l .ok
  | failed l => exact .answer .init l .errTransport
  | hung l c => exact .hang .init l c

theorem exec_init_sameCourse {s s' t t' : State} (hp : s'.params = s.params) (hd : s'.initDone = s.initDone)
    (hdraws : SameDraws s s' (txCount (wireInit s.params)) 0 0 ((wireInit s.params).length + 2))
    (h : exec .init s = .next t) (h' : exec .init s' = .next t') : SameCourse s s' t t' := by
  cases hdone : s.initDone with
  | true =>
    cases (exec_init_locked hdone).symm.trans h
    cases (exec_init_locked (hd.trans hdone)).symm.trans h'
    exact .answer .init [] .errLocked
  | false =>
    cases (exec_init_unlocked hdone).symm.trans h
    cases (exec_init_unlocked (hd.trans hdone)).symm.trans h'
    exact .conclude (inScope_lockstep (s := s.begin .init) (s' := s'.begin .init) (initBody_follows s.params) .disp
      rfl hp hdraws.transfers_eq hdraws.hangs_iff)

/-- Settles O31: `exec_noInitEvents`, and that the same draws take INIT the same way. -/
theorem onlyInitDrivesResetAndDelays : Obligations.OnlyInitDrivesResetAndDelays := by
  refine ⟨fun i s t hi h => ?_, fun _ _ _ _ => exec_init_sameCourse⟩
  obtain ⟨l, htrace, hl⟩ := exec_noInitEvents hi h
  exact ⟨((exec_oneWriter h).init hi).2, l, htrace, fun _ hm => Bool.noConfusion (hl _ hm),
    fun _ hm => Bool.noConfusion (hl _ hm)⟩

end Sys2Proof.Machine
end

section
/-! PROOFS. Family 43_glyph_renderer: the pixels of a glyph, the texts that are refused, and the text drawn. -/

namespace Sys2Proof.Machine

/-! ### The pixels of a glyph (43_glyph_renderer R150 to R153) -/

section Places
variable {row h col w : Nat}

theorem place_div (hcol : col < w) : (row * w + col) / w = row :=
  Nat.div_eq_of_lt_le (Nat.le_add_right ..) (by rw [Nat.succ_mul]; omega)

theorem place_lt (hrow : row < h) (hcol : col < w) : row * w + col < h * w :=
  (Nat.div_lt_iff_lt_mul (Nat.zero_lt_of_lt hcol)).1 ((place_div hcol).trans_lt hrow)

end Places

/-- The rows of a grid one after another: place i is column i % n of row i / n. -/
theorem flatMap_range_map_range {α : Type} (n : Nat) (g : Nat → Nat → α) : ∀ m : Nat,
    ((List.range m).flatMap fun row => (List.range n).map (g row)) =
      (List.range (m * n)).map fun i => g (i / n) (i % n)
  | 0 => by simp
  | m + 1 => by
    have lastRow : ∀ col ∈ List.range n, g m col = g ((m * n + col) / n) ((m * n + col) % n) := fun col hcol => by
      rw [place_div (List.mem_range.1 hcol), Nat.mul_add_mod_of_lt (List.mem_range.1 hcol)]
    rw [List.range_succ, List.flatMap_append, List.flatMap_singleton, flatMap_range_map_range n g m, Nat.succ_mul,
      List.range_add, List.map_append, List.map_map, List.map_congr_left lastRow]
    rfl

theorem glyphPixels_eq_map (rowBits : Nat) (f : Font) (code : Nat) (fg bg : U16) :
    glyphPixels rowBits f code fg bg = (List.range (f.gh * f.gw)).map fun i =>
      if pixelOn rowBits f code (i / f.gw) (i % f.gw) then fg else bg :=
  flatMap_range_map_range f.gw (fun row col => if pixelOn rowBits f code row col then fg else bg) f.gh

theorem glyphPixels_length (rowBits : Nat) (f : Font) (code : Nat) (fg bg : U16) :
    (glyphPixels rowBits f code fg bg).length = f.gw * f.gh := by
  rw [glyphPixels_eq_map, List.length_map, List.length_range, Nat.mul_comm]

theorem glyphPixels_ne_nil {f : Font} (hw : 1 ≤ f.gw) (hh : 1 ≤ f.gh) (rowBits code : Nat) (fg bg : U16) :
    glyphPixels rowBits f code fg bg ≠ [] := by
  rw [← List.length_pos_iff, glyphPixels_length]
  exact Nat.mul_pos hw hh

theorem glyphPixels_getElem? {f : Font} {row col : Nat} (hrow : row < f.gh) (hcol : col < f.gw)
    (rowBits code : Nat) (fg bg : U16) :
    (glyphPixels rowBits f code fg bg)[row * f.gw + col]? =
      some (if pixelOn rowBits f code row col then fg else bg) := by
  rw [glyphPixels_eq_map, List.getElem?_map, List.getElem?_range (place_lt hrow hcol), Option.map_some,
    place_div hcol, Nat.mul_add_mod_of_lt hcol]

/-- A pixel of a row that the table holds. -/
theorem pixelOn_iff {f : Font} {code row bits : Nat} (h : f.rows[(code - 32) * f.gh + row]? = some bits)
    (rowBits col : Nat) : pixelOn rowBits f code row col = true ↔ bits / 2 ^ (rowBits - 1 - col) % 2 = 1 := by
  rw [pixelOn, glyphRow, List.getD_eq_getElem?_getD, h, Option.getD_some, Nat.testBit_eq_decide_div_mod_eq,
    decide_eq_true_iff]

/-- Settles O35: the place of a pixel in the cell, and the bit that says whether it is on. -/
theorem glyphCellIsRowMajor : Obligations.GlyphCellIsRowMajor := by
  refine fun rowBits f code fg bg => ⟨glyphPixels_length .., fun row col bits hrow hcol hbits => ?_⟩
  simp only [glyphPixels_getElem? hrow hcol, pixelOn_iff hbits]

theorem font_legal_of_legal {p : Params} (hp : p.legal = true) {n : Nat} {f : Font} (hf : p.fonts[n]? = some f) :
    Font.legal p.rowBits f = true := by
  simp only [Params.legal, Bool.and_eq_true, List.all_eq_true] at hp
  obtain ⟨⟨⟨-, hfonts⟩, -⟩, -⟩ := hp
  exact hfonts f (List.mem_of_getElem? hf)

theorem rows_length_of_legal {rowBits : Nat} {f : Font} (h : Font.legal rowBits f = true) :
    f.rows.length = f.count * f.gh := by
  simp only [Font.legal, Bool.and_eq_true, decide_eq_true_iff] at h
  obtain ⟨⟨-, hrows⟩, -⟩ := h
  exact hrows

/-- Settles O36: the table is a grid of `count` glyphs of `gh` rows. -/
theorem glyphLookupIsInTheTable : Obligations.GlyphLookupIsInTheTable := by
  intro p n f code row hp hf hlo hhi hrow
  rw [rows_length_of_legal (font_legal_of_legal hp hf)]
  exact place_lt (by omega) hrow

/-! ### The texts that are refused (43_glyph_renderer R158) -/

theorem hasGlyph_iff {f : Font} {code : Nat} : hasGlyph f code = true ↔ 32 ≤ code ∧ code < 32 + f.count := by
  rw [hasGlyph, Bool.and_eq_true, decide_eq_true_iff, decide_eq_true_iff]

/-- The texts that are not refused, and their font. -/
theorem usableFont_eq_some_iff {p : Params} {W H y font : Nat} {text : List Byte} {f : Font} :
    usableFont p W H y font text = some f ↔ p.fonts[font]? = some f ∧ f.gw ≤ W ∧ f.gh ≤ H ∧ y + f.gh ≤ H ∧
      ∀ ch ∈ text, 32 ≤ ch.toNat ∧ ch.toNat < 32 + f.count := by
  unfold usableFont
  cases p.fonts[font]? with
  | none => simp
  | some g =>
    simp only [Option.ite_none_left_eq_some, Option.ite_none_right_eq_some, Option.some_inj, List.all_eq_true,
      hasGlyph_iff, not_or, not_lt]
    constructor
    · rintro ⟨⟨hw, hh⟩, hy, htext, rfl⟩
      exact ⟨rfl, hw, hh, hy, htext⟩
    · rintro ⟨rfl, hw, hh, hy, htext⟩
      exact ⟨⟨hw, hh⟩, hy, htext, rfl⟩

theorem exec_writeString_of_usableFont_none {x y : U16} {font : Byte} {text : List Byte} {s : State}
    (h : usableFont s.params s.surfW.toNat s.surfH.toNat y.toNat font.toNat text = none) (fg bg : U16) :
    exec (.writeString x y font fg bg text) s =
      .next ((s.begin (.writeString x y font fg bg text)).answer .errOperand) := by
  simp only [exec, execWriteString, State.begin_params, State.begin_surfW, State.begin_surfH]
  rw [h]

/-- Settles O33: a text that is not refused meets none of the causes. -/
theorem writeStringRefusals : Obligations.WriteStringRefusals := by
  intro x y font fg bg text s hcause
  have hnone : usableFont s.params s.surfW.toNat s.surfH.toNat y.toNat font.toNat text = none := by
    refine Option.eq_none_iff_forall_ne_some.2 fun g hg => ?_
    obtain ⟨hfont, hw, hh, hy, htext⟩ := usableFont_eq_some_iff.1 hg
    rcases hcause with hno | ⟨f, hf, hcause⟩
    · exact Option.some_ne_none g (hfont.symm.trans (List.getElem?_eq_none hno))
    · cases hfont.symm.trans hf
      rcases hcause with hw' | hh' | hy' | ⟨ch, hch, hcode⟩
      · exact hw'.not_ge hw
      · exact hh'.not_ge hh
      · exact hy'.not_ge hy
      · have := htext ch hch
        omega
  exact ⟨_, exec_writeString_of_usableFont_none hnone fg bg, ⟨rfl, rfl, rfl, rfl, rfl⟩, rfl⟩

/-! ### The text drawn (43_glyph_renderer R153 to R155) -/

theorem txCount_wireText (p : Params) (f : Font) (fg bg : U16) (l : List Placed) :
    txCount (wireText p f fg bg l) =
      l.length * (3 + 2 * ceilDiv 4 p.chunkMax + f.gw * f.gh * ceilDiv 2 p.chunkMax) :=
  txCount_flatMap l _ _ fun c => by rw [txCount_wireCell, glyphPixels_length]

/-- The last glyph drawn leaves DC at DATA (41_address_window R123). -/
theorem wireText_dc {f : Font} (hw : 1 ≤ f.gw) (hh : 1 ≤ f.gh) (p : Params) (fg bg : U16) {l : List Placed}
    (hl : l ≠ []) (a : Lines) : ((wireText p f fg bg l).foldl Lines.apply a).dc = .data := by
  obtain ⟨before, last, rfl⟩ := l.eq_nil_or_concat'.resolve_left hl
  rw [wireText, List.flatMap_append, List.flatMap_singleton, List.foldl_append,
    wireCell_lines (hp := glyphPixels_ne_nil hw hh _ _ _ _)]

/-- Settles O32: `display_ok` for the plan of the text. -/
theorem writeStringDrawsTheLaidOutText : Obligations.WriteStringDrawsTheLaidOutText := by
  intro x y font fg bg text s f hfont hw hh hy htext hr placed ht
  have hplan : s.displayPlan (.writeString x y font fg bg text) = some (wireText s.params f fg bg placed) := by
    rw [State.displayPlan, usableFont_eq_some_iff.2 ⟨hfont, hw, hh, hy, htext⟩]
    rfl
  obtain ⟨t, hexec, htrace, hans, hframe, hdc, hkeep, -⟩ := display_ok hplan hr (by rwa [txCount_wireText])
  obtain ⟨hrst, hinit⟩ := hkeep (by simp)
  refine ⟨t, hexec, htrace, hans, fun hnil => ?_, fun hne hw1 hh1 => ?_, hframe, hrst, hinit⟩
  · rw [hdc, hnil]
    rfl
  · rw [hdc, wireText_dc hw1 hh1 _ _ _ hne]

end Sys2Proof.Machine
end

section
/-! PROOFS. Family 43_glyph_renderer: where the layout places each character, and how many it places. -/

namespace Sys2Proof.Machine

/-! ### The place of character i (43_glyph_renderer R155 to R159) -/

/-- How many cells fit on a line from column x on: k0 for the first line, K for a whole one. -/
def lineRoom (W gw x : Nat) : Nat := (W - x) / gw

/-- The line of character i, counted from the first. -/
def cellLine (W gw x i : Nat) : Nat :=
  if i < lineRoom W gw x then 0 else 1 + (i - lineRoom W gw x) / lineRoom W gw 0

/-- The left edge of character i. -/
def cellX (W gw x i : Nat) : Nat :=
  if i < lineRoom W gw x then x + i * gw else (i - lineRoom W gw x) % lineRoom W gw 0 * gw

/-- Character i where the rule puts it. -/
def cellAt (W gw gh x y i : Nat) (ch : Byte) : Placed := ⟨cellX W gw x i, y + cellLine W gw x i * gh, ch⟩

/-- How many characters the surface has room for. -/
def cellRoom (W H gw gh x y : Nat) : Nat := lineRoom W gw x + lineRoom W gw 0 * ((H - y - gh) / gh)

section
variable {W H gw gh x y : Nat}

theorem lineRoom_eq_ite (W gw x : Nat) : (if x ≤ W then (W - x) / gw else 0) = lineRoom W gw x := by
  unfold lineRoom
  split
  · rfl
  · rw [Nat.sub_eq_zero_of_le (by omega), Nat.zero_div]

theorem lineRoom_of_full (hgw : 1 ≤ gw) (h : W < x + gw) : lineRoom W gw x = 0 := Nat.div_eq_of_lt (by omega)

theorem lineRoom_of_fits (hgw : 1 ≤ gw) (h : x + gw ≤ W) : lineRoom W gw x = lineRoom W gw (x + gw) + 1 := by
  rw [lineRoom, Nat.div_eq_sub_div hgw (by omega), Nat.sub_sub, lineRoom]

theorem lineRoom_zero_pos (hgw : 1 ≤ gw) (hW : gw ≤ W) : 0 < lineRoom W gw 0 := Nat.div_pos hW hgw

/-! ### One step of the cursor -/

/-- Drawing a character on this line moves the cursor one cell. -/
theorem cellAt_succ (hgw : 1 ≤ gw) (h : x + gw ≤ W) (i : Nat) :
    cellAt W gw gh x y (i + 1) = cellAt W gw gh (x + gw) y i := by
  have hx : x + (i + 1) * gw = x + gw + i * gw := by ring
  funext ch
  simp only [cellAt, cellX, cellLine, lineRoom_of_fits hgw h, Nat.add_lt_add_iff_right, Nat.add_sub_add_right, hx]

theorem cellAt_zero (hgw : 1 ≤ gw) (h : x + gw ≤ W) (ch : Byte) : cellAt W gw gh x y 0 ch = ⟨x, y, ch⟩ := by
  simp [cellAt, cellX, cellLine, lineRoom_of_fits hgw h]

theorem cellRoom_succ (hgw : 1 ≤ gw) (h : x + gw ≤ W) :
    cellRoom W H gw gh x y = cellRoom W H gw gh (x + gw) y + 1 := by
  rw [cellRoom, lineRoom_of_fits hgw h, cellRoom]
  omega

/-- A full line is a start at the left edge of the next one (R156). -/
theorem cellAt_wrap (hgw : 1 ≤ gw) (hW : gw ≤ W) (h : W < x + gw) :
    cellAt W gw gh x y = cellAt W gw gh 0 (y + gh) := by
  have hK := lineRoom_zero_pos hgw hW
  funext i ch
  simp only [cellAt, cellX, cellLine, lineRoom_of_full hgw h, Nat.not_lt_zero, if_false, Nat.sub_zero]
  split
  case isTrue hi => simp [Nat.mod_eq_of_lt hi, Nat.div_eq_of_lt hi]
  case isFalse hi =>
    have hle : lineRoom W gw 0 ≤ i := not_lt.1 hi
    rw [Nat.mod_eq_sub_mod hle, Nat.div_eq_sub_div hK hle]
    congr 1
    ring

theorem cellRoom_wrap (hgw : 1 ≤ gw) (hgh : 1 ≤ gh) (h : W < x + gw) (hnext : y + gh + gh ≤ H) :
    cellRoom W H gw gh x y = cellRoom W H gw gh 0 (y + gh) := by
  have hlines : (H - y - gh) / gh = (H - (y + gh) - gh) / gh + 1 := by
    rw [Nat.div_eq_sub_div hgh (by omega), ← Nat.sub_sub H y gh]
  rw [cellRoom, lineRoom_of_full hgw h, hlines, cellRoom]
  ring

/-- A full last line has no room (R157). -/
theorem cellRoom_of_full (hgw : 1 ≤ gw) (hgh : 1 ≤ gh) (h : W < x + gw) (hlast : H < y + gh + gh) :
    cellRoom W H gw gh x y = 0 := by
  have hlines : (H - y - gh) / gh = 0 := Nat.div_eq_of_lt (by omega)
  rw [cellRoom, lineRoom_of_full hgw h, hlines, Nat.mul_zero]

/-! ### The layout -/

/-- The layout puts each character at its place until the surface is full. -/
theorem layout_eq_take (hgw : 1 ≤ gw) (hgh : 1 ≤ gh) (hW : gw ≤ W) : ∀ (text : List Byte) {x y : Nat}, y + gh ≤ H →
    layout W H gw gh text x y = (text.mapIdx (cellAt W gw gh x y)).take (cellRoom W H gw gh x y)
  | [], _, _, _ => by simp [layout]
  | ch :: rest, x, y, hy => by
    -- a character that fits on its line
    have draw : ∀ {x y : Nat}, x + gw ≤ W → y + gh ≤ H →
        ⟨x, y, ch⟩ :: layout W H gw gh rest (x + gw) y =
          ((ch :: rest).mapIdx (cellAt W gw gh x y)).take (cellRoom W H gw gh x y) := fun hx hy => by
      rw [List.mapIdx_cons, cellRoom_succ hgw hx, List.take_succ_cons, cellAt_zero hgw hx,
        layout_eq_take hgw hgh hW rest hy]
      simp only [cellAt_succ hgw hx]
    by_cases hx : W < x + gw
    · by_cases hnext : H < y + gh + gh
      · rw [layout, if_pos hx, if_pos hnext, cellRoom_of_full hgw hgh hx hnext, List.take_zero]
      · rw [layout, if_pos hx, if_neg hnext, draw (by omega) (not_lt.1 hnext), cellAt_wrap hgw hW hx,
          cellRoom_wrap hgw hgh hx (not_lt.1 hnext)]
    · rw [layout, if_neg hx, draw (not_lt.1 hx) hy]

/-- A place is inside the surface in the direction of the line (R159 a). -/
theorem cellX_add_le (hgw : 1 ≤ gw) (hW : gw ≤ W) (i : Nat) : cellX W gw x i + gw ≤ W := by
  unfold cellX
  split
  case isTrue hi =>
    have hroom : (i + 1) * gw ≤ W - x := (Nat.le_div_iff_mul_le hgw).1 hi
    rw [Nat.succ_mul] at hroom
    omega
  case isFalse hi =>
    have hcol := Nat.mod_lt (i - lineRoom W gw x) (lineRoom_zero_pos hgw hW)
    calc _ = ((i - lineRoom W gw x) % lineRoom W gw 0 + 1) * gw := (Nat.succ_mul ..).symm
      _ ≤ W := (Nat.le_div_iff_mul_le hgw).1 hcol

/-- The surface has room for character i just when its line fits (R159 c, d). -/
theorem lt_cellRoom_iff (hgw : 1 ≤ gw) (hgh : 1 ≤ gh) (hW : gw ≤ W) (hy : y + gh ≤ H) (i : Nat) :
    i < cellRoom W H gw gh x y ↔ y + cellLine W gw x i * gh + gh ≤ H := by
  unfold cellRoom cellLine
  split
  case isTrue hi => omega
  case isFalse hi =>
    have hlines : i - lineRoom W gw x < lineRoom W gw 0 * ((H - y - gh) / gh) ↔
        (1 + (i - lineRoom W gw x) / lineRoom W gw 0) * gh ≤ H - y - gh := by
      rw [Nat.mul_comm (lineRoom W gw 0), ← Nat.div_lt_iff_lt_mul (lineRoom_zero_pos hgw hW), Nat.add_comm 1,
        ← Nat.le_div_iff_mul_le hgh, Nat.succ_le_iff]
    omega

theorem layout_length (hgw : 1 ≤ gw) (hgh : 1 ≤ gh) (hW : gw ≤ W) (hy : y + gh ≤ H) (text : List Byte) :
    (layout W H gw gh text x y).length = min text.length (cellRoom W H gw gh x y) := by
  rw [layout_eq_take hgw hgh hW text hy, List.length_take, List.length_mapIdx, Nat.min_comm]

theorem cellAt_of_layout_getElem? (hgw : 1 ≤ gw) (hgh : 1 ≤ gh) (hW : gw ≤ W) (hy : y + gh ≤ H) {text : List Byte}
    {i : Nat} {c : Placed} (h : (layout W H gw gh text x y)[i]? = some c) :
    i < cellRoom W H gw gh x y ∧ ∃ ch, cellAt W gw gh x y i ch = c := by
  rw [layout_eq_take hgw hgh hW text hy, List.getElem?_take, Option.ite_none_right_eq_some,
    List.getElem?_mapIdx, Option.map_eq_some_iff] at h
  obtain ⟨hi, ch, -, hch⟩ := h
  exact ⟨hi, ch, hch⟩

theorem layout_codes (hgw : 1 ≤ gw) (hgh : 1 ≤ gh) (hW : gw ≤ W) (hy : y + gh ≤ H) (text : List Byte) :
    (layout W H gw gh text x y).map Placed.code = text.take (cellRoom W H gw gh x y) := by
  have codes : (text.mapIdx (cellAt W gw gh x y)).map Placed.code = text := List.ext_getElem? fun i => by
    rw [List.getElem?_map, List.getElem?_mapIdx, Option.map_map]
    exact congrFun Option.map_id _
  rw [layout_eq_take hgw hgh hW text hy, List.map_take, codes]

end

/-- Settles O34: every clause is read off `layout_eq_take`. -/
theorem layoutPlacesEachCharacter : Obligations.LayoutPlacesEachCharacter := by
  intro W H gw gh x y text hgw hgh hW hy
  simp only [lineRoom_eq_ite]
  refine ⟨fun c hc => ?_, ?_, fun i c hc => ?_, fun i hi => ?_, layout_length hgw hgh hW hy text⟩
  · obtain ⟨i, hi⟩ := List.mem_iff_getElem?.1 hc
    obtain ⟨hroom, ch, rfl⟩ := cellAt_of_layout_getElem? hgw hgh hW hy hi
    exact ⟨cellX_add_le hgw hW i, (lt_cellRoom_iff hgw hgh hW hy i).1 hroom⟩
  · rw [layout_codes hgw hgh hW hy]
    exact List.take_prefix ..
  · obtain ⟨-, ch, rfl⟩ := cellAt_of_layout_getElem? hgw hgh hW hy hc
    rfl
  · rw [layout_length hgw hgh hW hy, lt_min_iff, and_iff_right hi]
    exact lt_cellRoom_iff hgw hgh hW hy i

end Sys2Proof.Machine
end

section
/-! PROOFS. Family 44_touch: the axis map. -/

namespace Sys2Proof.Machine

/-! ### The axis map (44_touch R179 to R182, R187, R188) -/

section Map
variable {mn mx : Nat}

theorem clampRaw_eq (h : mn < mx) (raw : Nat) : clampRaw raw mn mx = max mn (min raw mx) := by
  unfold clampRaw
  split
  · omega
  · split <;> omega

theorem mapAxis_eq (h : mn < mx) (raw sc : Nat) :
    mapAxis raw mn mx sc = (max mn (min raw mx) - mn) * sc / (mx - mn) := by
  rw [mapAxis, clampRaw_eq h]

theorem mapAxis_of_le_min (h : mn < mx) {raw : Nat} (hraw : raw ≤ mn) (sc : Nat) : mapAxis raw mn mx sc = 0 := by
  have hclamp : max mn (min raw mx) - mn = 0 := by omega
  rw [mapAxis_eq h, hclamp, Nat.zero_mul, Nat.zero_div]

theorem mapAxis_of_max_le (h : mn < mx) {raw : Nat} (hraw : mx ≤ raw) (sc : Nat) : mapAxis raw mn mx sc = sc := by
  have hclamp : max mn (min raw mx) - mn = mx - mn := by omega
  rw [mapAxis_eq h, hclamp, Nat.mul_div_cancel_left _ (Nat.sub_pos_of_lt h)]

theorem mapAxis_mono (h : mn < mx) (sc : Nat) {r1 r2 : Nat} (hr : r1 ≤ r2) :
    mapAxis r1 mn mx sc ≤ mapAxis r2 mn mx sc := by
  have hclamp : max mn (min r1 mx) - mn ≤ max mn (min r2 mx) - mn := by omega
  rw [mapAxis_eq h, mapAxis_eq h]
  exact Nat.div_le_div_right (Nat.mul_le_mul_right sc hclamp)

theorem mapAxis_le (h : mn < mx) (raw sc : Nat) : mapAxis raw mn mx sc ≤ sc :=
  calc mapAxis raw mn mx sc ≤ mapAxis (max raw mx) mn mx sc := mapAxis_mono h sc (le_max_left raw mx)
    _ = sc := mapAxis_of_max_le h (le_max_right raw mx) sc

/-- Below the top of the range the map stays inside the extent. -/
theorem mapAxis_lt (h : mn < mx) {raw sc : Nat} (hraw : raw < mx) (hsc : 1 ≤ sc) : mapAxis raw mn mx sc < sc := by
  have hclamp : max mn (min raw mx) - mn < mx - mn := by omega
  rw [mapAxis_eq h, Nat.div_lt_iff_lt_mul (Nat.sub_pos_of_lt h), Nat.mul_comm sc]
  exact Nat.mul_lt_mul_of_pos_right hclamp hsc

end Map

theorem yOut_anti {sc m1 m2 : Nat} (h : m1 ≤ m2) : yOut sc m2 ≤ yOut sc m1 :=
  Int.sub_le_sub_left (Int.ofNat_le.2 h) _

theorem yOut_self (sc : Nat) : yOut sc sc = -1 := by
  unfold yOut
  omega

/-- Settles O42: the clamp is monotone, and what it keeps at each end of the range maps to 0 and to the extent. -/
theorem mapAxisRangeAndMonotone : Obligations.MapAxisRangeAndMonotone := fun _ _ sc h =>
  ⟨fun raw => mapAxis_eq h raw sc, fun raw => mapAxis_le h raw sc, fun _ hraw => mapAxis_of_le_min h hraw sc,
    fun _ hraw => mapAxis_of_max_le h hraw sc, fun _ _ hr => mapAxis_mono h sc hr,
    fun _ _ hr => yOut_anti (mapAxis_mono h sc hr)⟩

/-- Settles O43: the map reaches the extent at the top of the range only. -/
theorem topOfRangeCorner : Obligations.TopOfRangeCorner := by
  intro mn mx sc raw h
  refine ⟨fun hraw hsc => ?_, fun hraw => ?_, ?_⟩
  · have hlt := mapAxis_lt h hraw hsc
    unfold yOut
    omega
  · rw [mapAxis_of_max_le h hraw, yOut_self]
    exact ⟨rfl, rfl⟩
  · rw [Nat.le_zero.1 (mapAxis_le h raw 0), yOut_self]

end Sys2Proof.Machine
end

section
/-! PROOFS. Family 44_touch: how a touch read ends and what it answers. -/

namespace Sys2Proof.Machine

/-! ### With and without a calibration (44_touch R170, R171) -/

theorem exec_touchRead_calibrated {s : State} (h : s.calValid = true) : exec .touchRead s =
    .next (conclude (inScope .touch (sampleLoop s.nSamples.toNat) (s.begin .touchRead).clearSums)
      fun _ t => finishTouch t) := by
  rw [exec, execTouchRead, State.begin_calValid, if_pos h]
  rfl

theorem exec_touchRead_uncalibrated {s : State} (h : s.calValid = false) :
    exec .touchRead s = .next ((s.begin .touchRead).answer .errConfig) := by
  rw [exec, execTouchRead, State.begin_calValid, h]
  rfl

/-- Settles O37: an answer writes the results only. -/
theorem touchReadNeedsACalibration : Obligations.TouchReadNeedsACalibration :=
  fun _ h => ⟨_, exec_touchRead_uncalibrated h, ⟨rfl, rfl, rfl, rfl, rfl⟩, rfl⟩

/-! ### The state a touch read has reached after so many samples (44_touch R173 to R176) -/

/-- The state after c samples, then the events `tail`, and the deselect. -/
def State.touchEnd (s : State) (c : Nat) (tail : List Event) : State :=
  (State.collect c s.touchStart).play (tail ++ [.desel .touch])

theorem State.touchEnd_csTouch (s : State) (c : Nat) (tail : List Event) :
    (s.touchEnd c tail).csTouch = .deasserted := by
  rw [State.touchEnd, State.play_append]
  rfl

theorem State.touchEnd_trace (s : State) (c : Nat) (tail : List Event) : (s.touchEnd c tail).trace =
    s.trace ++ (.sel .touch :: (List.range c).flatMap s.sampleEvents ++ (tail ++ [.desel .touch])) := by
  rw [State.touchEnd, State.play_trace, collect_trace, State.touchStart_trace, funext s.touchStart_sampleEvents]
  simp

/-- What neither the start of a touch read, its calls nor its samples write is as it was. -/
theorem State.touchEnd_keeps {β : Type} (f : State → β) (hstart : ∀ s, f (State.begin s .touchRead).clearSums = f s)
    (hemit : ∀ s e, f (State.emit s e) = f s) (hacc : ∀ s x y, f (State.accumulate s x y) = f s)
    (s : State) (c : Nat) (tail : List Event) : f (s.touchEnd c tail) = f s := by
  rw [State.touchEnd, State.play_keeps f hemit, collect_keeps f hemit hacc, State.touchStart, hemit, hstart]

theorem State.touchEnd_nSamples (s : State) (c : Nat) (tail : List Event) :
    (s.touchEnd c tail).nSamples = s.nSamples :=
  State.touchEnd_keeps State.nSamples (fun _ => rfl) State.emit_nSamples (fun _ _ _ => rfl) s c tail

theorem State.touchEnd_calibration (s : State) (c : Nat) (tail : List Event) :
    SameCalibration s (s.touchEnd c tail) := by
  have hkeeps : SameCalibration s (s.touchEnd c tail) = SameCalibration s s :=
    State.touchEnd_keeps (SameCalibration s) (fun _ => rfl) (fun u e => by simp [SameCalibration]) (fun _ _ _ => rfl)
      s c tail
  exact hkeeps ▸ ⟨rfl, rfl, rfl, rfl, rfl, rfl, rfl⟩

theorem State.touchEnd_cnt (s : State) (c : Nat) (tail : List Event) :
    (s.touchEnd c tail).cnt = BitVec.ofNat 16 c := by
  rw [State.touchEnd, State.play_cnt, collect_cnt]
  exact BitVec.zero_add _

/-- The exact sum of fewer than 2^16 raw values fits its register (10_state R25). -/
theorem toNat_rawSum {c : Nat} (h : c < 2 ^ 16) (raw : Nat → U16) :
    (0 + BitVec.ofNat 32 (rawSum raw c)).toNat = rawSum raw c := by
  have hle := rawSum_le raw c
  calc (0 + BitVec.ofNat 32 (rawSum raw c)).toNat = (BitVec.ofNat 32 (rawSum raw c)).toNat :=
        congrArg BitVec.toNat (BitVec.zero_add _)
    _ = rawSum raw c := Nat.mod_eq_of_lt (by omega)

theorem State.touchEnd_sumX (s : State) {c : Nat} (h : c < 2 ^ 16) (tail : List Event) :
    (s.touchEnd c tail).sumX.toNat = rawSum s.rawX c := by
  rw [State.touchEnd, State.play_sumX, collect_sumX]
  exact toNat_rawSum h s.rawX

theorem State.touchEnd_sumY (s : State) {c : Nat} (h : c < 2 ^ 16) (tail : List Event) :
    (s.touchEnd c tail).sumY.toNat = rawSum s.rawY c := by
  rw [State.touchEnd, State.play_sumY, collect_sumY]
  exact toNat_rawSum h s.rawY

/-! ### The three ways out of the loop (44_touch R173, R176, R184) -/

theorem sampleLoop_after {s : State} {c m : Nat} (hr : s.AllCallsReturn) (hp : s.PressedFor c)
    (ht : s.TransfersOk (4 * c)) :
    sampleLoop (c + m) s.touchStart = sampleLoop m (State.collect c s.touchStart) :=
  sampleLoop_collect c m s.touchStart (AllCallsReturn_touchStart hr) hp ht

theorem collect_cutSampleEvents (c j : Nat) : ∀ (s : State) (i : Nat),
    (State.collect c s).cutSampleEvents i j = s.cutSampleEvents (i + c) j := by
  induction c with
  | zero => intro s i; rfl
  | succ c ih =>
    intro s i
    rw [State.collect, ih, collect1_cutSampleEvents, Nat.add_assoc]

/-- A loop that failed is followed by the deselect, and the read answers ERR_TRANSPORT. -/
theorem exec_touchRead_of_loop_failed {s u : State} (hv : s.calValid = true) (hr : s.AllCallsReturn)
    (hloop : sampleLoop s.nSamples.toNat s.touchStart = .failed u) (hru : u.AllCallsReturn) :
    exec .touchRead s = .next ((u.emit (.desel .touch)).answer .errTransport) := by
  have hcall : (s.begin .touchRead).clearSums.callReturns = true := callReturns_of_all hr
  rw [State.touchStart] at hloop
  rw [exec_touchRead_calibrated hv]
  simp [inScope, assertSelect, deassertSelect, simpleCall, hcall, hloop, callReturns_of_all hru, conclude]

theorem exec_touchRead_released {s : State} {c : Nat} (hv : s.calValid = true) (hr : s.AllCallsReturn)
    (hc : c < s.nSamples.toNat) (hp : s.PressedFor c) (ht : s.TransfersOk (4 * c)) (hhigh : s.pressAt c = .high) :
    exec .touchRead s = .next (finishTouch (s.touchEnd c [.press .high])) := by
  obtain ⟨m, hm⟩ := Nat.exists_eq_add_of_lt hc
  have hcollect := AllCallsReturn_collect c (AllCallsReturn_touchStart hr)
  refine exec_touchRead_of_loop_ok hv hr ?_ (AllCallsReturn_emit (.press .high) hcollect)
  rw [hm, Nat.add_assoc, sampleLoop_after hr hp ht, sampleLoop_high hcollect]
  rw [collect_pressAt, Nat.zero_add]
  exact hhigh

theorem exec_touchRead_failed {s : State} {c j d : Nat} (hv : s.calValid = true) (hr : s.AllCallsReturn)
    (hc : c < s.nSamples.toNat) (hj : j < 4) (hp : s.PressedFor (c + 1)) (ht : s.TransfersOk (4 * c + j))
    (hd : s.transferAt (4 * c + j) = .fail d) :
    exec .touchRead s = .next ((s.touchEnd c (s.cutSampleEvents c j)).answer .errTransport) := by
  obtain ⟨m, hm⟩ := Nat.exists_eq_add_of_lt hc
  have hcollect := AllCallsReturn_collect c (AllCallsReturn_touchStart hr)
  have hcut : (State.collect c s.touchStart).cutSampleEvents 0 j = s.cutSampleEvents c j := by
    rw [collect_cutSampleEvents, Nat.zero_add]
    rfl
  rw [State.touchEnd, State.play_append]
  refine exec_touchRead_of_loop_failed hv hr ?_ (AllCallsReturn_play _ hcollect)
  rw [hm, Nat.add_assoc, sampleLoop_after hr (fun k hk => hp k (by omega)) (ht.mono (by omega)), ← hcut]
  refine sampleLoop_fail hcollect ?_ hj (fun k hk => ?_) ?_ (d := d)
  · rw [collect_pressAt, Nat.zero_add]
    exact hp c (by omega)
  · rw [collect_transferAt]
    exact ht _ (by omega)
  · rw [collect_transferAt, Nat.add_comm]
    exact hd

/-! ### What a touch read that ended leaves -/

/-- The touch read from s to t made c samples and the events `tail`, was deselected and answered. -/
structure TouchEnds (s t : State) (c : Nat) (tail : List Event) : Prop where
  exec_eq : exec .touchRead s = .next t
  answers : OnlyAnswers (s.touchEnd c tail) t

section Ends
variable {s t : State} {c : Nat} {tail : List Event} (h : TouchEnds s t c tail)
include h

theorem TouchEnds.trace_eq : t.trace =
    s.trace ++ (.sel .touch :: (List.range c).flatMap s.sampleEvents ++ (tail ++ [.desel .touch])) :=
  h.answers.trace_eq.trans (s.touchEnd_trace c tail)

theorem TouchEnds.answered {status : Byte} {x y : U16} (hstatus : t.status = status) (hx : t.resX = x)
    (hy : t.resY = y) : Answered s t status x y := by
  have hresp := exec_answersOnce h.exec_eq h.answers.idle
  rw [AnswersOnce, hstatus, hx, hy] at hresp
  exact ⟨h.answers.idle, hstatus, hx, hy, hresp⟩

theorem TouchEnds.frame : TouchFrame s t := by
  have writes := exec_oneWriter h.exec_eq
  obtain ⟨hinit, hrst⟩ := writes.init (by simp)
  obtain ⟨hdisp, hdc⟩ := writes.display rfl
  exact ⟨writes.surface (by simp), writes.calibration (by simp), writes.nSamples (by simp), hinit, hdisp,
    h.answers.csTouch_eq.trans (s.touchEnd_csTouch c tail), hdc, hrst, writes.params_eq, writes.requests_eq⟩

theorem TouchEnds.sums (hc : c < 2 ^ 16) : t.sumX.toNat = rawSum s.rawX c ∧ t.sumY.toNat = rawSum s.rawY c ∧
    t.cnt = BitVec.ofNat 16 c := by
  obtain ⟨hx, hy, hcnt⟩ := h.answers.sums
  rw [hx, hy, hcnt]
  exact ⟨s.touchEnd_sumX hc tail, s.touchEnd_sumY hc tail, s.touchEnd_cnt c tail⟩

end Ends

section Ways
variable {s : State} {c : Nat} (hv : s.calValid = true) (hr : s.AllCallsReturn)
include hv hr

theorem touchEnds_complete (hp : s.PressedFor s.nSamples.toNat) (ht : s.TransfersOk (4 * s.nSamples.toNat)) :
    TouchEnds s (finishTouch (s.touchEnd s.nSamples.toNat [])) s.nSamples.toNat [] :=
  ⟨exec_touchRead_collect hv hr hp ht, finishTouch_onlyAnswers _⟩

theorem touchEnds_released (hc : c < s.nSamples.toNat) (hp : s.PressedFor c) (ht : s.TransfersOk (4 * c))
    (hhigh : s.pressAt c = .high) :
    TouchEnds s (finishTouch (s.touchEnd c [.press .high])) c [.press .high] :=
  ⟨exec_touchRead_released hv hr hc hp ht hhigh, finishTouch_onlyAnswers _⟩

theorem touchEnds_failed {j d : Nat} (hc : c < s.nSamples.toNat) (hj : j < 4) (hp : s.PressedFor (c + 1))
    (ht : s.TransfersOk (4 * c + j)) (hd : s.transferAt (4 * c + j) = .fail d) :
    TouchEnds s ((s.touchEnd c (s.cutSampleEvents c j)).answer .errTransport) c (s.cutSampleEvents c j) :=
  ⟨exec_touchRead_failed hv hr hc hj hp ht hd, answer_onlyAnswers _ _⟩

end Ways

/-! ### What it answers (44_touch R177 to R184) -/

theorem finishTouch_of_cnt_lt {u : State} (h : u.cnt.toNat < u.nSamples.toNat) :
    finishTouch u = u.answer .noTouch := by
  rw [finishTouch, State.tooFewSamples, decide_eq_true h]
  rfl

theorem finishTouch_of_le_cnt {u : State} (h : u.nSamples.toNat ≤ u.cnt.toNat) : finishTouch u = u.answerTouch
    (mapAxis (u.sumX.toNat / u.nSamples.toNat) u.calMinX.toNat u.calMaxX.toNat u.scaleX.toNat)
    (yOut u.scaleY.toNat
      (mapAxis (u.sumY.toNat / u.nSamples.toNat) u.calMinY.toNat u.calMaxY.toNat u.scaleY.toNat)) := by
  rw [finishTouch, State.tooFewSamples, decide_eq_false (not_lt.2 h)]
  rfl

theorem finishTouch_touchEnd_of_lt {s : State} {c : Nat} (hc : c < s.nSamples.toNat) (tail : List Event) :
    finishTouch (s.touchEnd c tail) = (s.touchEnd c tail).answer .noTouch := by
  refine finishTouch_of_cnt_lt ?_
  rw [s.touchEnd_cnt, s.touchEnd_nSamples, BitVec.toNat_ofNat]
  exact (Nat.mod_le _ _).trans_lt hc

theorem finishTouch_touchEnd_complete (s : State) (tail : List Event) :
    finishTouch (s.touchEnd s.nSamples.toNat tail) = (s.touchEnd s.nSamples.toNat tail).answerTouch
      (mapAxis (rawSum s.rawX s.nSamples.toNat / s.nSamples.toNat) s.calMinX.toNat s.calMaxX.toNat s.scaleX.toNat)
      (yOut s.scaleY.toNat (mapAxis (rawSum s.rawY s.nSamples.toNat / s.nSamples.toNat) s.calMinY.toNat
        s.calMaxY.toNat s.scaleY.toNat)) := by
  obtain ⟨hminX, hmaxX, hminY, hmaxY, hscaleX, hscaleY, -⟩ := s.touchEnd_calibration s.nSamples.toNat tail
  have hn : s.nSamples.toNat < 2 ^ 16 := s.nSamples.isLt
  rw [finishTouch_of_le_cnt, s.touchEnd_sumX hn, s.touchEnd_sumY hn, s.touchEnd_nSamples, hminX, hmaxX, hminY, hmaxY,
    hscaleX, hscaleY]
  rw [s.touchEnd_cnt, s.touchEnd_nSamples, BitVec.ofNat_toNat, BitVec.setWidth_eq]

/-- Settles O38: all N samples are collected, and `mapAxis` of their averages is reported. -/
theorem touchReadReportsTheMappedAverage : Obligations.TouchReadReportsTheMappedAverage := by
  intro s hv hX hY _ hr hp ht n avgX avgY x y
  have hends := touchEnds_complete hv hr hp ht
  have hx : mapAxis avgX s.calMinX.toNat s.calMaxX.toNat s.scaleX.toNat = x := mapAxis_eq hX _ _
  have hy : mapAxis avgY s.calMinY.toNat s.calMaxY.toNat s.scaleY.toNat = y := mapAxis_eq hY _ _
  have hfinish := finishTouch_touchEnd_complete s []
  rw [hx, hy] at hfinish
  have hle : x ≤ s.scaleX.toNat := hx ▸ mapAxis_le hX _ _
  have hlt : x < 2 ^ 16 := hle.trans_lt s.scaleX.isLt
  have hresX : (finishTouch (s.touchEnd n [])).resX = BitVec.ofNat 16 x := by rw [hfinish]; rfl
  refine ⟨_, hends.exec_eq, hends.trace_eq, hends.answered ?_ hresX ?_, ?_, hle, hends.frame⟩
  · rw [hfinish]; rfl
  · rw [hfinish]; rfl
  · rw [hresX, BitVec.toNat_ofNat, Nat.mod_eq_of_lt hlt]

/-- Settles O39: c samples are too few. -/
theorem earlyReleaseIsNoTouch : Obligations.EarlyReleaseIsNoTouch := by
  intro s c hv hc hr hp hhigh ht
  have hends := touchEnds_released hv hr hc hp ht hhigh
  rw [finishTouch_touchEnd_of_lt hc] at hends
  exact ⟨_, hends.exec_eq, hends.trace_eq, hends.answered rfl rfl rfl, hends.frame⟩

/-- Settles O40: the loop is left at the failed transfer. -/
theorem touchTransferFailureIsErrTransport : Obligations.TouchTransferFailureIsErrTransport := by
  intro s c j d hv hc hj hr hp ht hd
  have hends := touchEnds_failed hv hr hc hj hp ht hd
  exact ⟨_, hends.exec_eq, by simpa using hends.trace_eq, hends.answered rfl rfl rfl, hends.frame⟩

/-! ### Every way a touch read can go when its calls return -/

/-- After c good samples the line is HIGH, or a transfer of the next sample fails. -/
def State.StopsAfter (s : State) (c : Nat) : Prop :=
  s.pressAt c = .high ∨
    (s.pressAt c = .low ∧ ∃ j d, j < 4 ∧ s.TransfersOk (4 * c + j) ∧ s.transferAt (4 * c + j) = .fail d)

/-- The draws that come next give a touch read c good samples, and then end its loop, all N taken or not. -/
structure State.Collects (s : State) (c : Nat) : Prop where
  le_nSamples : c ≤ s.nSamples.toNat
  pressed : s.PressedFor c
  transfers : s.TransfersOk (4 * c)
  ends : c = s.nSamples.toNat ∨ s.StopsAfter c

theorem State.PressedFor.succ {s : State} {c : Nat} (h : s.PressedFor c) (hlow : s.pressAt c = .low) :
    s.PressedFor (c + 1) := fun k hk => by
  rcases Nat.lt_succ_iff_lt_or_eq.1 hk with hk | rfl
  · exact h k hk
  · exact hlow

/-- The first n samples are good, or the loop stops before. -/
theorem State.samples_or_stops (s : State) : ∀ n : Nat, (s.PressedFor n ∧ s.TransfersOk (4 * n)) ∨
    ∃ c < n, s.PressedFor c ∧ s.TransfersOk (4 * c) ∧ s.StopsAfter c
  | 0 => .inl ⟨fun _ hk => absurd hk (Nat.not_lt_zero _), fun _ hk => absurd hk (Nat.not_lt_zero _)⟩
  | n + 1 => by
    rcases s.samples_or_stops n with ⟨hp, ht⟩ | ⟨c, hc, hstops⟩
    · cases hpress : s.pressAt n with
      | high => exact .inr ⟨n, Nat.lt_succ_self n, hp, ht, .inl hpress⟩
      | low =>
        rcases s.transfersOk_or_first_fail (4 * (n + 1)) with hok | ⟨k, d, hk, hbefore, hd⟩
        · exact .inl ⟨hp.succ hpress, hok⟩
        · have hge : 4 * n ≤ k := by
            by_contra hlt
            cases (ht k (by omega)).symm.trans hd
          obtain ⟨j, rfl⟩ := Nat.exists_eq_add_of_le hge
          exact .inr ⟨n, Nat.lt_succ_self n, hp, ht, .inr ⟨hpress, j, d, by omega, hbefore, hd⟩⟩
    · exact .inr ⟨c, Nat.lt_succ_of_lt hc, hstops⟩

theorem State.exists_collects (s : State) : ∃ c, s.Collects c := by
  rcases s.samples_or_stops s.nSamples.toNat with ⟨hp, ht⟩ | ⟨c, hc, hp, ht, hstops⟩
  · exact ⟨_, le_rfl, hp, ht, .inl rfl⟩
  · exact ⟨c, hc.le, hp, ht, .inr hstops⟩

/-- A touch read makes the samples its draws give, and after a release, or after all N, it met no failure. -/
theorem State.Collects.touchEnds {s : State} {c : Nat} (h : s.Collects c) (hv : s.calValid = true)
    (hr : s.AllCallsReturn) : ∃ t tail, TouchEnds s t c tail ∧
      (tail = (if c < s.nSamples.toNat then [.press .high] else []) ∨ t.status = 0x80) := by
  obtain ⟨hle, hp, ht, hway⟩ := h
  rcases hle.eq_or_lt with rfl | hc
  · exact ⟨_, [], touchEnds_complete hv hr hp ht, .inl (if_neg (lt_irrefl _)).symm⟩
  · rcases hway with rfl | hhigh | ⟨hlow, j, d, hj, htj, hd⟩
    · exact absurd hc (lt_irrefl _)
    · exact ⟨_, _, touchEnds_released hv hr hc hp ht hhigh, .inl (if_pos hc).symm⟩
    · exact ⟨_, _, touchEnds_failed hv hr hc hj (hp.succ hlow) htj hd, .inr rfl⟩

/-- Settles O53: on every way out the samples are those collected. -/
theorem touchReadLeavesItsSums : Obligations.TouchReadLeavesItsSums := by
  intro s c hv hr hc hp ht hway
  obtain ⟨t, tail, hends, -⟩ := State.Collects.touchEnds ⟨hc, hp, ht, hway⟩ hv hr
  exact ⟨t, hends.exec_eq, hends.sums (hc.trans_lt s.nSamples.isLt)⟩

end Sys2Proof.Machine
end

section
/-! PROOFS. Family 44_touch: the events of a touch read that met no failure, and how many of each (R186). -/

namespace Sys2Proof.Machine

/-- A count that adds up over lists and is k for each sample is c * k for c samples. -/
theorem count_samples {s : State} (count : List Event → Nat) (hnil : count [] = 0)
    (happend : ∀ a b, count (a ++ b) = count a + count b) {k : Nat} (hk : ∀ i, count (s.sampleEvents i) = k) (c : Nat) :
    count ((List.range c).flatMap s.sampleEvents) = c * k := by
  induction c with
  | zero => rw [Nat.zero_mul]; exact hnil
  | succ c ih => rw [List.range_succ, List.flatMap_append, List.flatMap_singleton, happend, ih, hk, Nat.succ_mul]

theorem exchangeCount_append (a b : List Event) : exchangeCount (a ++ b) = exchangeCount a + exchangeCount b := by
  simp [exchangeCount]

theorem sampleEvents_ofTouch (s : State) (i : Nat) : ∀ e ∈ s.sampleEvents i, e.ofTouch = true := by
  simp [State.sampleEvents, State.axisEvents, wireAxis, Event.ofTouch]

/-- The scope of a touch read that met no failure: c samples, the release, if there was one, and the deselect. -/
def State.touchScope (s : State) (c : Nat) : List Event :=
  .sel .touch :: (List.range c).flatMap s.sampleEvents ++
    (if c < s.nSamples.toNat then [.press .high, .desel .touch] else [.desel .touch])

/-- The same count over the whole scope. -/
theorem count_touchScope {s : State} (count : List Event → Nat) (hnil : count [] = 0)
    (happend : ∀ a b, count (a ++ b) = count a + count b) {k : Nat} (hk : ∀ i, count (s.sampleEvents i) = k) (c : Nat) :
    count (s.touchScope c) = count [.sel .touch] + c * k +
      (if c < s.nSamples.toNat then count [.press .high] else 0) + count [.desel .touch] := by
  have hscope : s.touchScope c = [.sel .touch] ++ (List.range c).flatMap s.sampleEvents ++
      (if c < s.nSamples.toNat then [.press .high] else []) ++ [.desel .touch] := by
    unfold State.touchScope
    split <;> simp
  rw [hscope, happend, happend, happend, count_samples count hnil happend hk, apply_ite count, hnil]

theorem event_count_touchScope {s : State} (e : Event) {k : Nat} (hk : ∀ i, (s.sampleEvents i).count e = k) (c : Nat) :
    (s.touchScope c).count e = [Event.sel .touch].count e + c * k +
      (if c < s.nSamples.toNat then [Event.press .high].count e else 0) + [Event.desel .touch].count e :=
  count_touchScope (List.count e) List.count_nil (fun _ _ => List.count_append) hk c

theorem touchScope_ofTouch (s : State) (c : Nat) : ∀ e ∈ s.touchScope c, e.ofTouch = true := by
  have hsamples : ∀ e ∈ (List.range c).flatMap s.sampleEvents, e.ofTouch = true := fun e he => by
    obtain ⟨i, -, he⟩ := List.mem_flatMap.1 he
    exact sampleEvents_ofTouch s i e he
  refine List.forall_mem_cons.2 ⟨rfl, List.forall_mem_append.2 ⟨hsamples, ?_⟩⟩
  split <;> simp [Event.ofTouch]

theorem sampleEvents_count_cmd {s : State} (hne : s.params.cmdReadX ≠ s.params.cmdReadY) (i : Nat) :
    (s.sampleEvents i).count (.tx [s.params.cmdReadX]) = 1 ∧
    (s.sampleEvents i).count (.tx [s.params.cmdReadY]) = 1 := by
  cases ha : s.params.axisFirst <;>
    simp [State.sampleEvents, State.axisEvents, wireAxis, State.firstCmd, State.secondCmd, ha, hne, hne.symm]

/-- Settles O41: a read that met no failure made the events of `touchScope`, and each kind is counted over them. -/
theorem touchReadCounts : Obligations.TouchReadCounts := by
  intro s t hv hr hne h hstatus c n
  obtain ⟨c', hcollects⟩ := s.exists_collects
  obtain ⟨t', tail, hends, htail⟩ := hcollects.touchEnds hv hr
  cases hends.exec_eq.symm.trans h
  obtain rfl := htail.resolve_right hstatus
  have hlt : c' < 2 ^ 16 := hcollects.le_nSamples.trans_lt s.nSamples.isLt
  obtain ⟨-, -, hcnt⟩ := hends.sums hlt
  obtain rfl : c = c' := by
    change t.cnt.toNat = c'
    rw [hcnt, BitVec.toNat_ofNat, Nat.mod_eq_of_lt hlt]
  have htrace : t.trace = s.trace ++ s.touchScope c := by
    rw [hends.trace_eq, State.touchScope]
    split <;> rfl
  have absent : ∀ e : Event, e.ofTouch = false → e ∉ s.touchScope c := fun e he hm =>
    Bool.noConfusion (he.symm.trans (touchScope_ofTouch s c e hm))
  refine ⟨hcollects.le_nSamples, s.touchScope c, htrace, rfl, ?_, ?_, ?_, ?_, ?_, ?_, ?_,
    fun m => absent _ rfl, fun level => absent _ rfl, fun ms => absent _ rfl⟩
  · rw [event_count_touchScope (.sel .touch) (k := 0) fun i => rfl]
    simp
  · rw [event_count_touchScope (.desel .touch) (k := 0) fun i => rfl]
    simp
  · rw [event_count_touchScope (.press .low) (k := 1) fun i => rfl,
      event_count_touchScope (.press .high) (k := 0) fun i => rfl]
    by_cases hc : c < s.nSamples.toNat <;> simp [n, hc]
  · rw [event_count_touchScope _ fun i => (sampleEvents_count_cmd hne i).1]
    simp
  · rw [event_count_touchScope _ fun i => (sampleEvents_count_cmd hne i).2]
    simp
  · rw [count_touchScope txCount rfl txCount_append (k := 2) (fun i => rfl)]
    simp [txCount, Nat.mul_comm]
  · rw [count_touchScope exchangeCount rfl exchangeCount_append (k := 2) (fun i => rfl)]
    simp [exchangeCount, Nat.mul_comm]

end Sys2Proof.Machine
end

section
/-! PROOFS. Family 44_touch: two touch reads with equal configuration and equal draws go the same way. -/

namespace Sys2Proof.Machine

/-! ### The draws that are left after an event -/

section Draws
variable {t t' : State} {a b p k : Nat}

theorem SameHangs.emit {n : Nat} (h : SameHangs t t' (n + 1)) (e : Event) : SameHangs (t.emit e) (t'.emit e) n :=
  SameHangs.play [e] (h.mono (Nat.add_comm 1 n).le)

theorem SameDraws.callReturns_eq (h : SameDraws t t' a b p (k + 1)) : t'.callReturns = t.callReturns :=
  SameHangs.callReturns_eq h.hangs_iff (Nat.succ_pos k)

/-- After any event at least the calls are left alike. -/
theorem SameDraws.calls_left (h : SameDraws t t' a b p (k + 1)) (e : Event) :
    SameDraws (t.emit e) (t'.emit e) 0 0 0 k :=
  ⟨by simp, by simp, by simp, SameHangs.emit h.hangs_iff e⟩

theorem SameDraws.mono {a' b' p' k' : Nat} (h : SameDraws t t' a b p k) (ha : a' ≤ a) (hb : b' ≤ b) (hp : p' ≤ p)
    (hk : k' ≤ k) : SameDraws t t' a' b' p' k' :=
  ⟨fun i hi => h.transfers_eq i (hi.trans_le ha), fun i hi => h.received_eq i (hi.trans_le hb),
    fun i hi => h.presses_eq i (hi.trans_le hp), fun i hi => h.hangs_iff i (hi.trans_le hk)⟩

theorem SameDraws.emit_sel (h : SameDraws t t' a b p (k + 1)) :
    SameDraws (t.emit (.sel .touch)) (t'.emit (.sel .touch)) a b p k :=
  ⟨h.transfers_eq, h.received_eq, h.presses_eq, SameHangs.emit h.hangs_iff _⟩

theorem SameDraws.emit_press (h : SameDraws t t' a b (p + 1) (k + 1)) (level : Level) :
    SameDraws (t.emit (.press level)) (t'.emit (.press level)) a b p k :=
  ⟨h.transfers_eq, h.received_eq, fun i hi => by simpa using h.presses_eq (i + 1) (by omega),
    SameHangs.emit h.hangs_iff _⟩

theorem SameDraws.emit_tx (h : SameDraws t t' (a + 1) b p (k + 1)) (bytes : List Byte) :
    SameDraws (t.emit (.tx bytes)) (t'.emit (.tx bytes)) a b p k :=
  ⟨fun i hi => by simpa using h.transfers_eq (i + 1) (by omega), h.received_eq, h.presses_eq,
    SameHangs.emit h.hangs_iff _⟩

theorem SameDraws.emit_txRx {out : List Byte} (h : SameDraws t t' (a + 1) (b + out.length) p (k + 1))
    (received : List Byte) : SameDraws (t.emit (.txRx out received)) (t'.emit (.txRx out received)) a b p k :=
  ⟨fun i hi => by simpa using h.transfers_eq (i + 1) (by omega),
    fun i hi => by simpa using h.received_eq (i + out.length) (by omega), h.presses_eq, SameHangs.emit h.hangs_iff _⟩

theorem SameDraws.answerBytes_eq {n : Nat} (h : SameDraws t t' a b p k) (hn : n ≤ b) :
    t'.answerBytes n = t.answerBytes n :=
  List.map_congr_left fun i hi => h.received_eq i ((List.mem_range.1 hi).trans_le hn)

end Draws

/-! ### Two runs in step (44_touch R185) -/

/-- Two touch reads, one from s and one from s', have reached t and t' by the same events, with the same sums and the
same configuration, and their next draws are equal: so many transfers, received bytes, press levels and calls. -/
structure InStep (s s' : State) (a b p k : Nat) (t t' : State) : Prop where
  events : ∃ l, t.trace = s.trace ++ l ∧ t'.trace = s'.trace ++ l
  seq_eq : t'.seq = t.seq
  responses_eq : t.responses = s.responses ∧ t'.responses = s'.responses
  params_eq : t'.params = t.params
  nSamples_eq : t'.nSamples = t.nSamples
  calibration : SameCalibration t t'
  sums : SameSums t t'
  draws : SameDraws t t' a b p k

/-- Two procedures end in the same way, in step; after a failure f calls are left. -/
inductive EndInStep {α : Type} (s s' : State) (R : State → State → Prop) (f : Nat) : Run α → Run α → Prop
  | ok {t t' : State} (result : α) (h : R t t') : EndInStep s s' R f (.ok result t) (.ok result t')
  | failed {t t' : State} (h : InStep s s' 0 0 0 f t t') : EndInStep s s' R f (.failed t) (.failed t')
  | hung {t t' : State} (c : Call) (h : InStep s s' 0 0 0 0 t t') :
    EndInStep s s' R f (.hung (t.hang c)) (.hung (t'.hang c))

section InStep
variable {s s' t t' : State} {a b p k : Nat}

theorem InStep.withDraws {a' b' p' k' : Nat} (h : InStep s s' a b p k t t') (hd : SameDraws t t' a' b' p' k') :
    InStep s s' a' b' p' k' t t' :=
  { h with draws := hd }

theorem InStep.mono {a' b' p' k' : Nat} (h : InStep s s' a b p k t t') (ha : a' ≤ a) (hb : b' ≤ b) (hp : p' ≤ p)
    (hk : k' ≤ k) : InStep s s' a' b' p' k' t t' :=
  h.withDraws (h.draws.mono ha hb hp hk)

theorem InStep.emit {a' b' p' k' : Nat} (h : InStep s s' a b p k t t') {e : Event}
    (hd : SameDraws (t.emit e) (t'.emit e) a' b' p' k') : InStep s s' a' b' p' k' (t.emit e) (t'.emit e) where
  events := by
    obtain ⟨l, hl, hl'⟩ := h.events
    exact ⟨l ++ [e], by simp [hl], by simp [hl']⟩
  seq_eq := by simp [h.seq_eq]
  responses_eq := by simpa using h.responses_eq
  params_eq := by simpa using h.params_eq
  nSamples_eq := by simpa using h.nSamples_eq
  calibration := by simpa [SameCalibration] using h.calibration
  sums := by simpa [SameSums] using h.sums
  draws := hd

theorem InStep.accumulate (h : InStep s s' a b p k t t') (rx ry : U16) :
    InStep s s' a b p k (t.accumulate rx ry) (t'.accumulate rx ry) where
  events := h.events
  seq_eq := h.seq_eq
  responses_eq := h.responses_eq
  params_eq := h.params_eq
  nSamples_eq := h.nSamples_eq
  calibration := h.calibration
  sums := by
    obtain ⟨hx, hy, hcnt⟩ := h.sums
    exact ⟨by simp [hx], by simp [hy], by simp [hcnt]⟩
  draws := ⟨h.draws.transfers_eq, h.draws.received_eq, h.draws.presses_eq, h.draws.hangs_iff⟩

theorem InStep.hung {α : Type} {R : State → State → Prop} {f : Nat} (h : InStep s s' a b p k t t') (c : Call) :
    EndInStep (α := α) s s' R f (.hung (t.hang c)) (.hung (t'.hang c)) :=
  .hung c (h.mono (Nat.zero_le _) (Nat.zero_le _) (Nat.zero_le _) (Nat.zero_le _))

theorem EndInStep.bind {α β : Type} {R R' : State → State → Prop} {f : Nat} {r r' : Run α} {g : α → State → Run β}
    (h : EndInStep s s' R f r r')
    (hg : ∀ result t t', R t t' → EndInStep s s' R' f (g result t) (g result t')) :
    EndInStep s s' R' f (r.bind g) (r'.bind g) := by
  cases h with
  | ok result h => exact hg result _ _ h
  | failed h => exact .failed h
  | hung c h => exact .hung c h

/-! ### Each call -/

theorem simpleCall_inStep {a' b' p' k' f : Nat} (c : Call) {e : Event} (h : InStep s s' a b p (k + 1) t t')
    (hd : SameDraws (t.emit e) (t'.emit e) a' b' p' k') :
    EndInStep s s' (InStep s s' a' b' p' k') f (simpleCall c e t) (simpleCall c e t') := by
  rw [simpleCall, simpleCall, h.draws.callReturns_eq]
  split
  · exact .ok () (h.emit hd)
  · exact h.hung c

theorem readPress_inStep (h : InStep s s' a b (p + 1) (k + 1) t t') :
    EndInStep s s' (InStep s s' a b p k) 1 (readPress t) (readPress t') := by
  rw [readPress, readPress, h.draws.callReturns_eq, h.draws.presses_eq 0 (Nat.succ_pos p)]
  split
  · exact .ok _ (h.emit (h.draws.emit_press _))
  · exact h.hung _

theorem transmit_inStep (bytes : List Byte) (h : InStep s s' (a + 1) b p (k + 2) t t') :
    EndInStep s s' (InStep s s' a b p (k + 1)) 1 (transmit bytes t) (transmit bytes t') := by
  have hfail := h.draws.calls_left (.txFail bytes)
  rw [transmit, transmit, h.draws.callReturns_eq, h.draws.transfers_eq 0 (Nat.succ_pos a)]
  split
  · split
    · exact .ok () (h.emit (h.draws.emit_tx bytes))
    · exact .failed (h.emit (hfail.mono le_rfl le_rfl le_rfl (Nat.succ_pos k)))
  · exact h.hung _

theorem transmitReceive_inStep (out : List Byte) (h : InStep s s' (a + 1) (b + out.length) p (k + 2) t t') :
    EndInStep s s' (InStep s s' a b p (k + 1)) 1 (transmitReceive out t) (transmitReceive out t') := by
  have hfail := h.draws.calls_left (.txRxFail out)
  rw [transmitReceive, transmitReceive, h.draws.callReturns_eq, h.draws.transfers_eq 0 (Nat.succ_pos a),
    h.draws.answerBytes_eq (Nat.le_add_left _ b)]
  split
  · split
    · exact .ok _ (h.emit (h.draws.emit_txRx _))
    · exact .failed (h.emit (hfail.mono le_rfl le_rfl le_rfl (Nat.succ_pos k)))
  · exact h.hung _

/-! ### A sample and the loop -/

theorem readAxis_inStep (cmd : Byte) (h : InStep s s' (a + 2) (b + 2) p (k + 3) t t') :
    EndInStep s s' (InStep s s' a b p (k + 1)) 1 (readAxis cmd t) (readAxis cmd t') :=
  (transmit_inStep [cmd] h).bind fun _ _ _ h =>
    (transmitReceive_inStep [0x00, 0x00] h).bind fun _ _ _ h => .ok _ h

theorem readSample_inStep (h : InStep s s' (a + 4) (b + 4) p (k + 5) t t') :
    EndInStep s s' (InStep s s' a b p (k + 1)) 1 (readSample t) (readSample t') := by
  rw [readSample, readSample, h.params_eq]
  split
  · refine (readAxis_inStep _ h).bind fun rx t t' h => ?_
    rw [h.params_eq]
    exact (readAxis_inStep _ h).bind fun ry _ _ h => .ok _ h
  · refine (readAxis_inStep _ h).bind fun ry t t' h => ?_
    rw [h.params_eq]
    exact (readAxis_inStep _ h).bind fun rx _ _ h => .ok _ h

theorem sampleLoop_inStep : ∀ (n : Nat) {t t' : State}, InStep s s' (4 * n) (4 * n) n (5 * n + 1) t t' →
    EndInStep s s' (InStep s s' 0 0 0 1) 1 (sampleLoop n t) (sampleLoop n t')
  | 0, _, _, h => .ok () h
  | n + 1, _, _, h => by
    rw [sampleLoop, sampleLoop]
    refine (readPress_inStep (k := 5 * n + 5) h).bind fun level t t' h => ?_
    cases level with
    | high => exact .ok () (h.mono (Nat.zero_le _) (Nat.zero_le _) (Nat.zero_le _) (by omega))
    | low => exact (readSample_inStep h).bind fun r _ _ h => sampleLoop_inStep n (h.accumulate r.1 r.2)

/-! ### The whole request -/

/-- Both runs made the same events and gave the same responses, and ended in the same way. -/
def SameRead (s s' t t' : State) : Prop :=
  ∃ l r, t.trace = s.trace ++ l ∧ t'.trace = s'.trace ++ l ∧ t'.seq = t.seq ∧
    t.responses = s.responses ++ r ∧ t'.responses = s'.responses ++ r

theorem InStep.answer (h : InStep s s' a b p k t t') (kind : Kind) :
    SameRead s s' (t.answer kind) (t'.answer kind) := by
  obtain ⟨l, hl, hl'⟩ := h.events
  obtain ⟨hr, hr'⟩ := h.responses_eq
  exact ⟨l, [⟨kind.code, 0, 0⟩], hl, hl', rfl, by simp [hr], by simp [hr']⟩

theorem InStep.hang (h : InStep s s' a b p k t t') (c : Call) : SameRead s s' (t.hang c) (t'.hang c) := by
  obtain ⟨l, hl, hl'⟩ := h.events
  obtain ⟨hr, hr'⟩ := h.responses_eq
  exact ⟨l, [], hl, hl', by simp [h.seq_eq], by simp [hr], by simp [hr']⟩

theorem InStep.finishTouch (h : InStep s s' a b p k t t') : SameRead s s' (finishTouch t) (finishTouch t') := by
  obtain ⟨hminX, hmaxX, hminY, hmaxY, hscaleX, hscaleY, -⟩ := h.calibration
  obtain ⟨hsumX, hsumY, hcnt⟩ := h.sums
  by_cases hfew : t.cnt.toNat < t.nSamples.toNat
  · rw [finishTouch_of_cnt_lt hfew, finishTouch_of_cnt_lt (by rwa [hcnt, h.nSamples_eq])]
    exact h.answer _
  · obtain ⟨l, hl, hl'⟩ := h.events
    obtain ⟨hr, hr'⟩ := h.responses_eq
    rw [finishTouch_of_le_cnt (not_lt.1 hfew),
      finishTouch_of_le_cnt (by rw [hcnt, h.nSamples_eq]; exact not_lt.1 hfew), hminX, hmaxX, hminY, hmaxY, hscaleX,
      hscaleY, hsumX, hsumY, h.nSamples_eq]
    exact ⟨l, [_], hl, hl', rfl, by rw [State.answerTouch_responses, hr], by rw [State.answerTouch_responses, hr']⟩

theorem EndInStep.conclude {r r' : Run Unit} (h : EndInStep s s' (InStep s s' 0 0 0 0) 0 r r') :
    SameRead s s' (conclude r fun _ t => Machine.finishTouch t) (conclude r' fun _ t => Machine.finishTouch t) := by
  cases h with
  | ok _ h => exact h.finishTouch
  | failed h => exact h.answer .errTransport
  | hung c h => exact h.hang c

/-- A scope of the touch controller adds a call before and a call after what is done in it. -/
theorem inScope_inStep {α : Type} {body : State → Run α}
    (hbody : ∀ t t', InStep s s' a b p (k + 1) t t' → EndInStep s s' (InStep s s' 0 0 0 1) 1 (body t) (body t'))
    (h : InStep s s' a b p (k + 2) t t') :
    EndInStep s s' (InStep s s' 0 0 0 0) 0 (inScope .touch body t) (inScope .touch body t') := by
  have desel : ∀ {t t'}, InStep s s' 0 0 0 1 t t' →
      EndInStep s s' (InStep s s' 0 0 0 0) 0 (deassertSelect .touch t) (deassertSelect .touch t') :=
    fun h => simpleCall_inStep _ h (h.draws.calls_left _)
  refine EndInStep.bind (simpleCall_inStep _ h h.draws.emit_sel) fun _ t t' h => ?_
  have hend := hbody t t' h
  beta_reduce
  generalize body t = r, body t' = r' at hend
  cases hend with
  | ok result h => exact (desel h).bind fun _ _ _ h => .ok result h
  | failed h => exact (desel h).bind fun _ _ _ h => .failed h
  | hung c h => exact .hung c h

end InStep

/-- Settles O44: the two runs stay in step, and one that ended gave one response. -/
theorem touchReadDependsOnDrawsAndCalibrationOnly : Obligations.TouchReadDependsOnDrawsAndCalibrationOnly := by
  intro s s' t t' hp hn hcal hdraws h h'
  have hcalValid : s'.calValid = s.calValid := by
    obtain ⟨-, -, -, -, -, -, hv⟩ := hcal
    exact hv
  have hread : SameRead s s' t t' := by
    cases hv : s.calValid with
    | false =>
      cases (exec_touchRead_uncalibrated hv).symm.trans h
      cases (exec_touchRead_uncalibrated (hcalValid.trans hv)).symm.trans h'
      exact ⟨[], [⟨Kind.errConfig.code, 0, 0⟩], by simp, by simp, rfl, rfl, rfl⟩
    | true =>
      cases (exec_touchRead_calibrated hv).symm.trans h
      cases (exec_touchRead_calibrated (hcalValid.trans hv)).symm.trans h'
      have hstart : InStep s s' (4 * s.nSamples.toNat) (4 * s.nSamples.toNat) s.nSamples.toNat
          (5 * s.nSamples.toNat + 2) (s.begin .touchRead).clearSums (s'.begin .touchRead).clearSums :=
        ⟨⟨[], by simp, by simp⟩, rfl, ⟨rfl, rfl⟩, hp, hn, hcal, ⟨rfl, rfl, rfl⟩,
          ⟨hdraws.transfers_eq, hdraws.received_eq, hdraws.presses_eq, hdraws.hangs_iff⟩⟩
      rw [hn]
      exact (inScope_inStep (fun _ _ => sampleLoop_inStep _) hstart).conclude
  obtain ⟨l, r, hl, hl', hseq, hr, hr'⟩ := hread
  refine ⟨l, r, hl, hl', hseq, hr, hr', fun hidle => ?_⟩
  rw [List.append_cancel_left (hr.symm.trans (exec_answersOnce h hidle))]
  rfl

end Sys2Proof.Machine
end

section
/-! PROOFS. Family 45_config: what each configuration request writes, and that none uses the bus. -/

namespace Sys2Proof.Machine

/-! ### The two ways each request goes (45_config R200, R202, R204) -/

theorem exec_cfgSurface_unlocked {s : State} (h : s.initDone = false) (w h' : U16) (rot : Byte) :
    exec (.cfgSurface w h' rot) s =
      .next ({ s.begin (.cfgSurface w h' rot) with surfW := w, surfH := h', rotMask := rot }.answer .ok) := by
  have hopen : ¬ (s.begin (.cfgSurface w h' rot)).initDone = true := Bool.eq_false_iff.1 h
  rw [exec, execCfgSurface, if_neg hopen]

theorem calibrationLegal_iff {minX maxX minY maxY : U16} : calibrationLegal minX maxX minY maxY = true ↔
    minX.toNat < maxX.toNat ∧ minY.toNat < maxY.toNat := by
  rw [calibrationLegal, Bool.and_eq_true, decide_eq_true_iff, decide_eq_true_iff]

theorem exec_cfgCal_accepted {minX maxX minY maxY : U16} (h : calibrationLegal minX maxX minY maxY = true)
    (scaleX scaleY : U16) (s : State) :
    exec (.cfgCal minX maxX minY maxY scaleX scaleY) s =
      .next (((s.begin (.cfgCal minX maxX minY maxY scaleX scaleY)).setCalibration
        minX maxX minY maxY scaleX scaleY).answer .ok) := by
  rw [exec, execCfgCal, if_pos h]

theorem exec_cfgCal_refused {minX maxX minY maxY : U16} (h : ¬ calibrationLegal minX maxX minY maxY = true)
    (scaleX scaleY : U16) (s : State) :
    exec (.cfgCal minX maxX minY maxY scaleX scaleY) s =
      .next ((s.begin (.cfgCal minX maxX minY maxY scaleX scaleY)).answer .errConfig) := by
  rw [exec, execCfgCal, if_neg h]

theorem exec_cfgSamples_zero (s : State) :
    exec (.cfgSamples 0) s = .next ((s.begin (.cfgSamples 0)).answer .errConfig) := by
  rw [exec, execCfgSamples, if_pos rfl]

theorem exec_cfgSamples_of_ne_zero {n : U16} (h : n ≠ 0) (s : State) :
    exec (.cfgSamples n) s = .next ({ s.begin (.cfgSamples n) with nSamples := n }.answer .ok) := by
  rw [exec, execCfgSamples, if_neg h]

/-! ### What they leave (45_config R200, R202, R204) -/

/-- Seen from the start of a request, which emits no response of its own. -/
theorem State.answer_answered {s u : State} (k : Kind) (h : u.responses = s.responses) :
    Answered s (u.answer k) k.code 0 0 :=
  ⟨rfl, rfl, rfl, rfl, by rw [State.answer_responses, h]⟩

/-- Settles O13: the cases are the values of INIT_DONE. -/
theorem cfgSurfaceWritesTheSurface : Obligations.CfgSurfaceWritesTheSurface := by
  intro w h rot s
  refine ⟨rfl, ?_⟩
  by_cases hd : s.initDone = true
  · exact ⟨_, exec_cfgSurface_locked hd w h rot, fun _ => ⟨State.answer_answered _ rfl, rfl⟩,
      fun hf => absurd hd (Bool.eq_false_iff.1 hf)⟩
  · exact ⟨_, exec_cfgSurface_unlocked (Bool.eq_false_iff.2 hd) w h rot, fun ht => absurd ht hd,
      fun _ => ⟨State.answer_answered _ rfl, rfl⟩⟩

/-- Settles O14: the cases are whether the calibration is legal. -/
theorem cfgCalWritesAllOrNothing : Obligations.CfgCalWritesAllOrNothing := by
  intro minX maxX minY maxY scaleX scaleY s
  refine ⟨rfl, ?_⟩
  by_cases hlegal : calibrationLegal minX maxX minY maxY = true
  · obtain ⟨hx, hy⟩ := calibrationLegal_iff.1 hlegal
    refine ⟨_, exec_cfgCal_accepted hlegal scaleX scaleY s, fun hdeg => ?_, fun _ _ => ?_⟩
    · exact absurd hdeg (not_or.2 ⟨hx.not_ge, hy.not_ge⟩)
    · exact ⟨State.answer_answered _ rfl, rfl⟩
  · refine ⟨_, exec_cfgCal_refused hlegal scaleX scaleY s, fun _ => ?_, fun hx hy => ?_⟩
    · exact ⟨State.answer_answered _ rfl, rfl⟩
    · exact absurd (calibrationLegal_iff.2 ⟨hx, hy⟩) hlegal

/-- Settles O15: the cases are n = 0 and the other n. -/
theorem cfgSamplesWritesTheCount : Obligations.CfgSamplesWritesTheCount := by
  intro n s
  refine ⟨rfl, ?_⟩
  by_cases hn : n = 0
  · subst hn
    exact ⟨_, exec_cfgSamples_zero s, fun _ => ⟨State.answer_answered _ rfl, rfl⟩, fun hne => absurd rfl hne⟩
  · exact ⟨_, exec_cfgSamples_of_ne_zero hn s, fun h0 => absurd h0 hn, fun _ => ⟨State.answer_answered _ rfl, rfl⟩⟩

/-! ### Off the bus (45_config R205) -/

theorem Configures.displayPlan_eq_none {i : Instr} (h : Configures i) (s : State) : s.displayPlan i = none := by
  rcases h with ⟨w, h', rot, rfl⟩ | ⟨a, b, c, d, e, f, rfl⟩ | ⟨n, rfl⟩ <;> rfl

theorem Configures.ne_init {i : Instr} (h : Configures i) : i ≠ .init := by
  rintro rfl
  simp [Configures] at h

theorem Configures.ne_touchRead {i : Instr} (h : Configures i) : i ≠ .touchRead := by
  rintro rfl
  simp [Configures] at h

theorem Configures.requestKinds_subset {i : Instr} (h : Configures i) :
    requestKinds i ⊆ [.ok, .errConfig, .errLocked] := by
  rcases h with ⟨w, h', rot, rfl⟩ | ⟨a, b, c, d, e, f, rfl⟩ | ⟨n, rfl⟩ <;> simp [requestKinds]

/-- Settles O16: such a request only writes settings and answers (`exec_direct`), and keeps the lines and the trace
(`exec_oneWriter`). -/
theorem configRequestsStayOffTheBus : Obligations.ConfigRequestsStayOffTheBus := by
  intro i s (hc : Configures i)
  obtain ⟨k, u, hexec, hkind, -, -, hwrites⟩ := exec_direct (hc.displayPlan_eq_none s) hc.ne_touchRead
  have writer := exec_oneWriter hexec
  obtain ⟨hdisp, htouch, hdc, htrace⟩ := writer.offBus hc
  have hlines : (u.answer k).lines = s.lines := by rw [State.lines, hdisp, htouch, hdc]; rfl
  have henv : u.env = s.env := by
    rcases hwrites with rfl | ⟨_, _, _, -, -, -, rfl⟩ | ⟨_, _, _, _, _, _, -, -, -, rfl⟩ | ⟨_, -, -, -, rfl⟩ <;> rfl
  exact ⟨_, hexec, rfl, htrace, hlines, (writer.init hc.ne_init).2, henv,
    List.mem_map_of_mem (f := Kind.code) (hc.requestKinds_subset hkind)⟩

end Sys2Proof.Machine
end

section
/-! PROOFS. Family 60_exceptions: waiting, and what a hung request leaves. -/

namespace Sys2Proof.Machine

/-! ### Waiting (60_exceptions R236, 70_reset R251) -/

/-- Settles O7: with nothing on the port there is nothing to take. -/
theorem stepWaitsWithoutRequest : Obligations.StepWaitsWithoutRequest := by
  intro s hidle hreq
  simp only [step, hidle, State.takeRequest, hreq]

/-! ### What a hung request leaves (60_exceptions R240) -/

theorem step_of_busy {s : State} {req : Instr} {pos : Pos} (h : s.seq = .busy req pos) :
    step s = .fault .transportCallNeverReturned := by
  simp only [step, h]

/-- In a scope of the display that is not closed its select line is asserted. -/
theorem State.play_sel_csDisp (s : State) {m : List Event} (hm : ∀ e ∈ m, e.movesSelect = false) :
    (s.play (.sel .disp :: m)).csDisp = .asserted :=
  State.play_keeps_of State.csDisp (fun e => e.movesSelect = false)
    (fun s e he => by
      cases e with
      | sel | desel => cases he
      | _ => rfl)
    m (s.emit (.sel .disp)) hm

/-- Request i, begun in s, hung in t at call c, after the events l. -/
structure HungAt (i : Instr) (s t : State) (l : List Event) (c : Call) : Prop where
  seq_eq : t.seq = .busy i ⟨l.length, some c⟩
  trace_eq : t.trace = s.trace ++ l
  initDone_eq : t.initDone = s.initDone
  selected : l ≠ [] → (if i = .touchRead then t.csTouch else t.csDisp) = .asserted

theorem HungAt.play {i : Instr} (hi : i ≠ .touchRead) (s : State) {l : List Event} (c : Call)
    (hl : l = [] ∨ ∃ m, l = .sel .disp :: m ∧ ∀ e ∈ m, e.movesSelect = false) :
    HungAt i s (((s.begin i).play l).hang c) l c where
  seq_eq := by simp [State.play_seq l (s.begin i) i 0 rfl, Seq.wait]
  trace_eq := by simp
  initDone_eq := by simp
  selected hne := by
    obtain ⟨m, rfl, hm⟩ := hl.resolve_left hne
    rw [if_neg hi]
    exact State.play_sel_csDisp (s.begin i) hm

theorem HungAt.touch {s u : State} {l : List Event} (c : Call) (hr : TouchReach (s.begin .touchRead) u l)
    (hsel : l ≠ [] → u.csTouch = .asserted) : HungAt .touchRead s (u.hang c) l c where
  seq_eq := by simp [hr.seq_eq _ _ rfl, Seq.wait]
  trace_eq := hr.trace_eq
  initDone_eq := hr.initDone_eq
  selected := hsel

/-- A request that did not end stands at a call, in its scope once it has made a call. -/
theorem exec_hungAt {i : Instr} {s t : State} (h : exec i s = .next t) (hbusy : t.seq ≠ .idle) :
    ∃ l c, HungAt i s t l c := by
  cases exec_shape h with
  | direct k u ends => subst ends; exact absurd rfl hbusy
  | dispOk plan _ ends => subst ends; exact absurd (endDisplay_keeps i _).1 hbusy
  | dispFail pre b post _ ends => subst ends; exact absurd rfl hbusy
  | dispHung l c plan planned made _ ends =>
    subst ends
    have hplan : ∀ e ∈ plan, e.movesSelect = false :=
      fun e he => Event.movesSelect_of_inner (displayPlan_inner planned e he)
    refine ⟨l, c, .play (ne_touchRead_of_displayPlan planned) s c (made.imp_right ?_)⟩
    rintro ⟨m, rfl, ⟨rest, rfl⟩ | ⟨pre, b, post, rfl, rfl⟩⟩
    · exact ⟨m, rfl, (List.forall_mem_append.1 hplan).1⟩
    · exact ⟨_, rfl, List.forall_mem_append.2
        ⟨(List.forall_mem_append.1 hplan).1, List.forall_mem_singleton.2 rfl⟩⟩
  | touchDone u l _ _ ends => subst ends; exact absurd (finishTouch_onlyAnswers u).idle hbusy
  | touchFail u l _ _ ends => subst ends; exact absurd rfl hbusy
  | touchHung u c req ends _ reach =>
    subst req ends
    rcases reach with ⟨_, hr⟩ | ⟨l, _, _, _, _, hsel, hr⟩
    · exact ⟨[], c, .touch c hr fun hne => absurd rfl hne⟩
    · exact ⟨_, c, .touch c hr fun _ => hsel⟩

/-- Settles O11: where the request hung (`exec_hungAt`), and that it answered nothing (`exec_ends_or_hangs`). -/
theorem hangHoldsTheSelectLine : Obligations.HangHoldsTheSelectLine := by
  intro i s t h hbusy
  obtain ⟨l, c, hung⟩ := exec_hungAt h hbusy
  have same : SameResults s t := by
    rcases exec_ends_or_hangs h with ⟨hidle, _⟩ | hung
    · exact absurd hidle hbusy
    · exact hung.results
  exact ⟨l, c, hung.seq_eq, hung.trace_eq, same.responses_eq, same.status_eq, same.resX_eq, same.resY_eq,
    (exec_oneWriter h).requests_eq, hung.initDone_eq, hung.selected, step_of_busy hung.seq_eq⟩

end Sys2Proof.Machine
end

section
/-! PROOFS. Family 60_exceptions: no request outlives a call that never returns. -/

namespace Sys2Proof.Machine

/-! ### Only calls that return are made (60_exceptions R240, 20_memory R57) -/

/-- From s to t so many calls returned as events were added to the trace, and the call that never returns, when it
was still to come, was not passed. -/
structure CallsReturned (s t : State) : Prop where
  made : ∃ l, t.trace = s.trace ++ l ∧ t.env.calls = s.env.calls + l.length
  neverReturns_eq : t.env.neverReturns = s.env.neverReturns
  notPassed : ∀ n, s.env.neverReturns = some n → s.env.calls ≤ n → t.env.calls ≤ n

theorem CallsReturned.of_same {s t : State} (htrace : t.trace = s.trace) (henv : t.env = s.env) :
    CallsReturned s t where
  made := ⟨[], by simp [htrace], by simp [henv]⟩
  neverReturns_eq := by rw [henv]
  notPassed n _ hn := by rwa [henv]

theorem CallsReturned.trans {s t u : State} (h : CallsReturned s t) (h' : CallsReturned t u) :
    CallsReturned s u where
  made := by
    obtain ⟨l, htrace, hcalls⟩ := h.made
    obtain ⟨l', htrace', hcalls'⟩ := h'.made
    exact ⟨l ++ l', by rw [htrace', htrace, List.append_assoc],
      by rw [hcalls', hcalls, List.length_append, Nat.add_assoc]⟩
  neverReturns_eq := h'.neverReturns_eq.trans h.neverReturns_eq
  notPassed n hn hle := h'.notPassed n (h.neverReturns_eq.trans hn) (h.notPassed n hn hle)

/-- A call that returns is not the one that never does. -/
theorem CallsReturned.emit {s : State} (h : s.callReturns = true) (e : Event) : CallsReturned s (s.emit e) where
  made := ⟨[e], by simp, by simp⟩
  neverReturns_eq := by simp
  notPassed n hn hle := by
    have hne : n ≠ s.env.calls := by simpa [State.callReturns, hn] using h
    rw [State.emit_calls]
    omega

/-- The state a procedure ends or hangs in. -/
def Run.state {α : Type} : Run α → State
  | .ok _ s => s
  | .failed s => s
  | .hung s => s

/-! ### However a procedure goes, it makes only calls that return -/

/-- A procedure that, however it goes, makes only calls that return. -/
def MakesCalls {α : Type} (f : State → Run α) : Prop := ∀ s, CallsReturned s (f s).state

theorem MakesCalls.ok {α : Type} (a : α) : MakesCalls fun s => .ok a s := fun _ => .of_same rfl rfl

theorem CallsReturned.bind {α β : Type} {s : State} {r : Run α} {g : α → State → Run β}
    (h : CallsReturned s r.state) (hg : ∀ a, MakesCalls (g a)) : CallsReturned s (r.bind g).state := by
  cases r with
  | ok a t => exact h.trans (hg a t)
  | failed t => exact h
  | hung t => exact h

theorem CallsReturned.andThen {β : Type} {s : State} {r : Run Unit} {g : State → Run β}
    (h : CallsReturned s r.state) (hg : MakesCalls g) : CallsReturned s (r.andThen g).state :=
  h.bind fun _ => hg

theorem simpleCall_makesCalls (c : Call) (e : Event) : MakesCalls (simpleCall c e) := fun s => by
  unfold simpleCall
  split
  case isTrue h => exact .emit h e
  case isFalse => exact .of_same rfl rfl

theorem readPress_makesCalls : MakesCalls readPress := fun s => by
  unfold readPress
  split
  case isTrue h => exact .emit h _
  case isFalse => exact .of_same rfl rfl

theorem transmit_makesCalls (bytes : List Byte) : MakesCalls (transmit bytes) := fun s => by
  unfold transmit
  split
  case isTrue h => split <;> exact .emit h _
  case isFalse => exact .of_same rfl rfl

theorem transmitReceive_makesCalls (out : List Byte) : MakesCalls (transmitReceive out) := fun s => by
  unfold transmitReceive
  split
  case isTrue h => split <;> exact .emit h _
  case isFalse => exact .of_same rfl rfl

theorem runCall_makesCalls (e : Event) : MakesCalls (runCall e) := by
  cases e with
  | sel | desel | mode | rst | delay => exact simpleCall_makesCalls _ _
  | tx bytes => exact transmit_makesCalls bytes
  | txFail | txRx | txRxFail | press => exact .ok ()

theorem runPlan_makesCalls : ∀ plan : List Event, MakesCalls (runPlan plan)
  | [] => .ok ()
  | e :: l => fun s => (runCall_makesCalls e s).andThen (runPlan_makesCalls l)

/-- A scope adds a select and, on every way out, a deselect. -/
theorem inScope_makesCalls {α : Type} (dev : Dev) {body : State → Run α} (h : MakesCalls body) :
    MakesCalls (inScope dev body) := fun s => by
  refine (simpleCall_makesCalls _ _ s).andThen fun t => ?_
  have hbody := h t
  generalize body t = r at hbody
  cases r with
  | ok a u => exact hbody.trans ((simpleCall_makesCalls _ _ u).andThen fun _ => .of_same rfl rfl)
  | failed u => exact hbody.trans ((simpleCall_makesCalls _ _ u).andThen fun _ => .of_same rfl rfl)
  | hung u => exact hbody

theorem readAxis_makesCalls (cmd : Byte) : MakesCalls (readAxis cmd) := fun s =>
  (transmit_makesCalls _ s).andThen fun t => (transmitReceive_makesCalls _ t).bind fun _ => .ok _

theorem readSample_makesCalls : MakesCalls readSample := fun s => by
  unfold readSample
  split <;>
    exact (readAxis_makesCalls _ s).bind fun _ t => (readAxis_makesCalls _ t).bind fun _ => .ok _

theorem sampleLoop_makesCalls : ∀ n : Nat, MakesCalls (sampleLoop n)
  | 0 => .ok ()
  | n + 1 => fun s => by
    refine (readPress_makesCalls s).bind fun level t => ?_
    cases level with
    | high => exact .of_same rfl rfl
    | low =>
      refine (readSample_makesCalls t).bind fun r u => ?_
      have accumulated : CallsReturned u (u.accumulate r.1 r.2) := .of_same rfl rfl
      exact accumulated.trans (sampleLoop_makesCalls n _)

/-! ### The whole request -/

/-- Ending a request makes no call. -/
theorem CallsReturned.conclude {α : Type} {s : State} {r : Run α} {done : α → State → State}
    (h : CallsReturned s r.state) (hdone : ∀ a u, CallsReturned u (done a u)) :
    CallsReturned s (conclude r done) := by
  cases r with
  | ok a u => exact h.trans (hdone a u)
  | failed u => exact h.trans (.of_same rfl rfl)
  | hung u => exact h

/-- In a scope, a procedure that follows a plan does what running the plan does. -/
theorem Follows.inScope_eq_runPlan {p : Params} {f : State → Run Unit} {plan : List Event} (hf : Follows p f plan)
    (dev : Dev) {s : State} (hs : s.params = p) : inScope dev f s = inScope dev (runPlan plan) s :=
  (inScope_eq_closeScope hf dev hs).trans (inScope_eq_closeScope ⟨hf.1, fun _ _ => rfl⟩ dev hs).symm

theorem exec_callsReturned {i : Instr} {s t : State} (h : exec i s = .next t) : CallsReturned s t := by
  have begun : CallsReturned s (s.begin i) := .of_same rfl rfl
  by_cases hit : i = .touchRead
  · subst hit
    cases hv : s.calValid with
    | false =>
      cases (exec_touchRead_uncalibrated hv).symm.trans h
      exact begun.trans (.of_same rfl rfl)
    | true =>
      cases (exec_touchRead_calibrated hv).symm.trans h
      have hloop := inScope_makesCalls .touch (sampleLoop_makesCalls s.nSamples.toNat)
        (s.begin .touchRead).clearSums
      have cleared : CallsReturned s (s.begin .touchRead).clearSums := .of_same rfl rfl
      exact cleared.trans (hloop.conclude fun _ u =>
        .of_same (finishTouch_onlyAnswers u).trace_eq (finishTouch_onlyAnswers u).env_eq)
  · cases hp : s.displayPlan i with
    | none =>
      obtain ⟨k, u, hexec, -, -, -, writes⟩ := exec_direct hp hit
      cases hexec.symm.trans h
      rcases writes with rfl | ⟨_, _, _, -, -, -, rfl⟩ | ⟨_, _, _, _, _, _, -, -, -, rfl⟩ | ⟨_, -, -, -, rfl⟩ <;>
        exact .of_same rfl rfl
    | some plan =>
      obtain ⟨f, hf, hexec⟩ := exec_display hp
      cases hexec.symm.trans h
      rw [hf.inScope_eq_runPlan .disp (State.begin_params s i)]
      have hscope := inScope_makesCalls .disp (runPlan_makesCalls plan) (s.begin i)
      refine begun.trans (hscope.conclude fun _ u => ?_)
      unfold endDisplay
      split <;> exact .of_same rfl rfl

/-- Settles O10: all the calls a request made returned (`exec_callsReturned`), so they stand before the one that never
does. -/
theorem noRequestOutlivesAHang : Obligations.NoRequestOutlivesAHang := by
  intro i s t k hnever h _
  obtain ⟨⟨l, htrace, hcalls⟩, -, notPassed⟩ := exec_callsReturned h
  have hle := notPassed _ hnever (Nat.le_add_right _ _)
  exact ⟨l, htrace, by omega⟩

end Sys2Proof.Machine
end

section
/-! PROOFS. Family 60_exceptions: with which kinds a request ends, and which requests are refused. -/

namespace Sys2Proof.Machine

/-! ### Kinds (60_exceptions R220, R221) -/

/-- The kinds that refuse a request before it does anything (60_exceptions R227 to R229). -/
def Kind.refuses : Kind → Bool
  | .errConfig | .errOperand | .errLocked => true
  | _ => false

theorem Kind.code_injective : Function.Injective Kind.code := by
  intro a b h
  cases a <;> cases b <;> simp [Kind.code] at h ⊢

theorem requestKinds_of_displayPlan {i : Instr} {s : State} {plan : List Event} (h : s.displayPlan i = some plan) :
    .ok ∈ requestKinds i ∧ .errTransport ∈ requestKinds i := by
  cases i with
  | cfgSurface | cfgCal | cfgSamples | touchRead => cases h
  | init | frame | fillRect | fillScreen | clear | writeString => simp [requestKinds]

/-- A request that ended has one of its kinds, and one that used the bus was not refused. -/
theorem exec_kind {i : Instr} {s t : State} (h : exec i s = .next t) (hidle : t.seq = .idle) :
    ∃ k ∈ requestKinds i, t.status = k.code ∧ (s.usesBus i = true → k.refuses = false) := by
  cases exec_shape h with
  | direct k u ends noBus kind =>
    subst ends
    exact ⟨k, kind, rfl, fun bus => absurd (noBus.symm.trans bus) Bool.false_ne_true⟩
  | dispOk plan planned ends =>
    subst ends
    obtain ⟨-, hstatus, -⟩ := endDisplay_keeps i ((s.begin i).play (.sel .disp :: plan ++ [.desel .disp]))
    exact ⟨.ok, (requestKinds_of_displayPlan planned).1, hstatus, fun _ => rfl⟩
  | dispFail pre b post planned ends =>
    subst ends
    exact ⟨.errTransport, (requestKinds_of_displayPlan planned).2, rfl, fun _ => rfl⟩
  | dispHung l c plan planned made hangs ends =>
    subst ends
    exact absurd hidle (Hung.play c hangs).busy
  | touchDone u l req valid ends =>
    subst req ends
    rcases finishTouch_cases u with hend | ⟨x, y, hend⟩ <;> rw [hend]
    · exact ⟨.noTouch, by simp [requestKinds], rfl, fun _ => rfl⟩
    · exact ⟨.touch, by simp [requestKinds], rfl, fun _ => rfl⟩
  | touchFail u l req valid ends =>
    subst req ends
    exact ⟨.errTransport, by simp [requestKinds], rfl, fun _ => rfl⟩
  | touchHung u c req ends hangs reach =>
    subst req ends
    rcases reach with ⟨_, hr⟩ | ⟨l, _, _, _, _, _, hr⟩ <;> exact absurd hidle (Hung.touch c hangs hr).busy

/-- Settles O47: `exec_kind`. -/
theorem eachRequestEndsWithItsKinds : Obligations.EachRequestEndsWithItsKinds := by
  intro i s t h hidle
  obtain ⟨k, kind, hstatus, -⟩ := exec_kind h hidle
  exact ⟨k, kind, hstatus⟩

/-! ### Which requests are refused (60_exceptions R227 to R229) -/

/-- The kind with which a state refuses a request, if it does. -/
def State.refusal (s : State) : Instr → Option Kind
  | .cfgSurface _ _ _ | .init => if s.initDone then some .errLocked else none
  | .cfgCal minX maxX minY maxY _ _ => if calibrationLegal minX maxX minY maxY then none else some .errConfig
  | .cfgSamples n => if n = 0 then some .errConfig else none
  | .writeString _ y font _ _ text =>
    if usableFont s.params s.surfW.toNat s.surfH.toNat y.toNat font.toNat text = none then some .errOperand else none
  | .touchRead => if s.calValid then none else some .errConfig
  | .frame _ _ | .fillRect _ _ _ _ _ | .fillScreen _ | .clear => none

/-- A refused request is answered at once. -/
theorem exec_of_refusal {i : Instr} {s : State} {k : Kind} (h : s.refusal i = some k) :
    exec i s = .next ((s.begin i).answer k) := by
  cases i with
  | cfgSurface w h' rot =>
    obtain ⟨hd, rfl⟩ : s.initDone = true ∧ .errLocked = k := by simpa [State.refusal] using h
    exact exec_cfgSurface_locked hd w h' rot
  | init =>
    obtain ⟨hd, rfl⟩ : s.initDone = true ∧ .errLocked = k := by simpa [State.refusal] using h
    exact exec_init_locked hd
  | cfgCal a b c d e f =>
    obtain ⟨hcal, rfl⟩ : ¬ calibrationLegal a b c d = true ∧ .errConfig = k := by simpa [State.refusal] using h
    exact exec_cfgCal_refused hcal e f s
  | cfgSamples n =>
    obtain ⟨rfl, rfl⟩ : n = 0 ∧ .errConfig = k := by simpa [State.refusal] using h
    exact exec_cfgSamples_zero s
  | writeString x y font fg bg text =>
    obtain ⟨hfont, rfl⟩ : usableFont s.params s.surfW.toNat s.surfH.toNat y.toNat font.toNat text = none ∧
        .errOperand = k := by simpa [State.refusal] using h
    exact exec_writeString_of_usableFont_none hfont fg bg
  | touchRead =>
    obtain ⟨hv, rfl⟩ : s.calValid = false ∧ .errConfig = k := by simpa [State.refusal] using h
    exact exec_touchRead_uncalibrated hv
  | frame | fillRect | fillScreen | clear => cases h

/-- A request that is not refused ends with a kind that does not refuse. -/
theorem exec_kind_of_no_refusal {i : Instr} {s t : State} (hno : s.refusal i = none) (h : exec i s = .next t)
    (hidle : t.seq = .idle) : ∃ k : Kind, t.status = k.code ∧ k.refuses = false := by
  obtain ⟨k, kind, hstatus, hbus⟩ := exec_kind h hidle
  cases i with
  | cfgSurface w h' rot =>
    have hd : s.initDone = false := by simpa [State.refusal] using hno
    cases (exec_cfgSurface_unlocked hd w h' rot).symm.trans h
    exact ⟨.ok, rfl, rfl⟩
  | cfgCal a b c d e f =>
    have hcal : calibrationLegal a b c d = true := by simpa [State.refusal] using hno
    cases (exec_cfgCal_accepted hcal e f s).symm.trans h
    exact ⟨.ok, rfl, rfl⟩
  | cfgSamples n =>
    have hn : n ≠ 0 := by simpa [State.refusal] using hno
    cases (exec_cfgSamples_of_ne_zero hn s).symm.trans h
    exact ⟨.ok, rfl, rfl⟩
  | init =>
    have hd : s.initDone = false := by simpa [State.refusal] using hno
    exact ⟨k, hstatus, hbus (usesBus_of_displayPlan (displayPlan_init hd))⟩
  | writeString x y font fg bg text =>
    have hfont : usableFont s.params s.surfW.toNat s.surfH.toNat y.toNat font.toNat text ≠ none := by
      simpa [State.refusal] using hno
    refine ⟨k, hstatus, hbus ?_⟩
    rw [State.usesBus, if_neg (by simp), State.displayPlan, Option.isSome_map]
    exact Option.isSome_iff_ne_none.2 hfont
  | touchRead =>
    have hv : s.calValid = true := by simpa [State.refusal] using hno
    exact ⟨k, hstatus, hbus hv⟩
  | frame | fillRect | fillScreen | clear =>
    refine ⟨k, hstatus, ?_⟩
    obtain rfl | rfl : k = .ok ∨ k = .errTransport := by simpa [requestKinds] using kind
    · rfl
    · rfl

/-- A request that ended has the code of a refusal just when it was refused with that kind. -/
theorem exec_status_eq_iff {i : Instr} {s t : State} (h : exec i s = .next t) (hidle : t.seq = .idle) {k : Kind}
    (hk : k.refuses = true) : t.status = k.code ↔ s.refusal i = some k := by
  cases href : s.refusal i with
  | none =>
    obtain ⟨k', hstatus, hk'⟩ := exec_kind_of_no_refusal href h hidle
    refine iff_of_false (fun hcode => ?_) (by simp)
    obtain rfl := Kind.code_injective (hstatus.symm.trans hcode)
    exact Bool.false_ne_true (hk'.symm.trans hk)
  | some k' =>
    cases (exec_of_refusal href).symm.trans h
    exact Kind.code_injective.eq_iff.trans Option.some_inj.symm

/-! ### The causes of each refusal -/

theorem refusal_eq_errConfig_iff {i : Instr} {s : State} : s.refusal i = some .errConfig ↔
    (∃ a b c d e f, i = .cfgCal a b c d e f ∧ (a.toNat ≥ b.toNat ∨ c.toNat ≥ d.toNat)) ∨
    i = .cfgSamples 0 ∨ (i = .touchRead ∧ s.calValid = false) := by
  cases i with
  | cfgCal a b c d e f =>
    have hcal : ¬ calibrationLegal a b c d = true ↔ a.toNat ≥ b.toNat ∨ c.toNat ≥ d.toNat := by
      rw [calibrationLegal_iff, not_and_or, not_lt, not_lt]
    simpa [State.refusal] using hcal
  | _ => simp [State.refusal]

/-- The four causes of 43_glyph_renderer R158. -/
theorem usableFont_eq_none_iff {p : Params} {W H y font : Nat} {text : List Byte} :
    usableFont p W H y font text = none ↔ p.fonts.length ≤ font ∨ ∃ f, p.fonts[font]? = some f ∧
      (W < f.gw ∨ H < f.gh ∨ H < y + f.gh ∨ ∃ ch ∈ text, ch.toNat < 32 ∨ 32 + f.count ≤ ch.toNat) := by
  cases hfont : p.fonts[font]? with
  | none => simp [usableFont, List.getElem?_eq_none_iff.1 hfont]
  | some f =>
    have hlt : ¬ p.fonts.length ≤ font := fun hle => by simp [List.getElem?_eq_none hle] at hfont
    have hsome : usableFont p W H y font text ≠ none ↔ f.gw ≤ W ∧ f.gh ≤ H ∧ y + f.gh ≤ H ∧
        ∀ ch ∈ text, 32 ≤ ch.toNat ∧ ch.toNat < 32 + f.count := by
      simp [Option.ne_none_iff_exists', usableFont_eq_some_iff, hfont]
    rw [← not_iff_not, ← ne_eq, hsome]
    simp [hlt]

theorem refusal_eq_errOperand_iff {i : Instr} {s : State} : s.refusal i = some .errOperand ↔
    ∃ x y font fg bg text, i = .writeString x y font fg bg text ∧
      (s.params.fonts.length ≤ font.toNat ∨
       ∃ f, s.params.fonts[font.toNat]? = some f ∧
        (s.surfW.toNat < f.gw ∨ s.surfH.toNat < f.gh ∨ s.surfH.toNat < y.toNat + f.gh ∨
         ∃ ch ∈ text, ch.toNat < 32 ∨ 32 + f.count ≤ ch.toNat)) := by
  cases i with
  | writeString x y font fg bg text =>
    have hrefusal : s.refusal (.writeString x y font fg bg text) = some .errOperand ↔
        usableFont s.params s.surfW.toNat s.surfH.toNat y.toNat font.toNat text = none := by simp [State.refusal]
    rw [hrefusal, usableFont_eq_none_iff]
    refine ⟨fun hcause => ⟨x, y, font, fg, bg, text, rfl, hcause⟩, ?_⟩
    rintro ⟨_, _, _, _, _, _, ⟨⟩, hcause⟩
    exact hcause
  | _ => simp [State.refusal]

theorem refusal_eq_errLocked_iff {i : Instr} {s : State} : s.refusal i = some .errLocked ↔
    s.initDone = true ∧ (i = .init ∨ ∃ w h rot, i = .cfgSurface w h rot) := by
  cases i <;> simp [State.refusal]

/-- Settles O50: the code of a refusal says the cause (`exec_status_eq_iff`), and a refused request is answered from
the state it began in (`exec_of_refusal`). -/
theorem refusalsHaveTheirCauses : Obligations.RefusalsHaveTheirCauses := by
  intro i s t h hidle
  have config := exec_status_eq_iff h hidle (k := .errConfig) rfl
  have operand := exec_status_eq_iff h hidle (k := .errOperand) rfl
  have locked := exec_status_eq_iff h hidle (k := .errLocked) rfl
  refine ⟨config.trans refusal_eq_errConfig_iff, operand.trans refusal_eq_errOperand_iff,
    locked.trans refusal_eq_errLocked_iff, fun hmem => ?_⟩
  obtain ⟨k, href⟩ : ∃ k, s.refusal i = some k := by
    simp only [List.mem_cons, List.not_mem_nil, or_false] at hmem
    rcases hmem with hcode | hcode | hcode
    · exact ⟨_, config.1 hcode⟩
    · exact ⟨_, operand.1 hcode⟩
    · exact ⟨_, locked.1 hcode⟩
  cases (exec_of_refusal href).symm.trans h
  exact ⟨rfl, rfl, rfl⟩

end Sys2Proof.Machine
end

section
/-! PROOFS. Family 70_reset_and_hazards: the values the spec states for reset, and the invariant there. -/

namespace Sys2Proof.Machine

/-- Settles O12: each register stands in `State.reset` with the value the spec states. -/
theorem resetLeavesTheStatedValues : Obligations.ResetLeavesTheStatedValues := by
  unfold Obligations.ResetLeavesTheStatedValues
  and_intros <;> rfl

/-- The constraints of 00_scope R6 put no condition on `AXIS_FIRST`. -/
theorem legal_withAxisFirst (p : Params) (a : Axis) : { p with axisFirst := a }.legal = p.legal := rfl

theorem least_legal : Params.least.legal = true := by decide

/-- The free parameters are taken only where they are legal. -/
theorem config_params_legal : Config.params.legal = true := by
  rw [Config.params, legal_withAxisFirst]
  split
  next hopen => exact hopen
  next => exact least_legal

/-- No event was made, so no scope is open. -/
theorem reset_busSafe : State.reset.busSafe = true :=
  State.reset.busSafe_iff.2 ⟨.closed, rfl, rfl, fun _ => rfl⟩

/-- Settles O45: the parameters are legal (`config_params_legal`), no scope is open (`reset_busSafe`), and the rest
holds of the values R250 states and of the empty histories. -/
theorem resetMeetsTheInvariant : Obligations.ResetMeetsTheInvariant where
  paramsLegal := config_params_legal
  samplesLegal := by decide
  calibrationLegal hvalid := by cases hvalid
  busSafe := reset_busSafe
  statusLegal := List.mem_cons_self
  resultsZero _ := ⟨rfl, rfl⟩
  lastResponse := .inl rfl
  exactResult _ hexact := by cases hexact
  cutsFit := .nil
  busyIsHung hbusy := absurd rfl hbusy

end Sys2Proof.Machine
end
